-- ==== Sys2Proof/Word.lean ====
section
/-! DEFINITION. The word types of the command port (`00_scope.md` R7: `CMD_W` = `RSP_W` = 32; R39: a symbol is a byte). -/

namespace Sys2Proof

/-- A 32-bit command word or response word (`30_encoding.md` R100, R120). -/
abbrev Word := BitVec 32

/-- A byte: the unit of every buffer access (`20_memory.md` R70) and one symbol of GF(2^8) (`44_reed_solomon.md` R290). -/
abbrev Byte := BitVec 8

end Sys2Proof
end

