-- ==== Sys2Proof/Syntax.lean ====
section
/-! DEFINITION. The 57 commands of `30_encoding.md` R106, one constructor per row of the opcode table, with the operand
fields of R102 at the widths the row gives them; and the three causes for which a command word is illegal (R107). -/

namespace Sys2Proof

/-- Why a command word is illegal (`60_exceptions.md` R381). -/
inductive IllegalCode where
  /-- Code 1: the opcode byte is none of the 57. -/
  | unknownOpcode
  /-- Code 2: a reserved `arg` bit of the row's format is 1. -/
  | reservedBits
  /-- Code 3: an operand is outside its legal range. -/
  | operandRange
deriving DecidableEq, Repr

/-- A command with its operand fields (`30_encoding.md` R106). A field holds every value its bits can carry; which values are
legal is `Instr.wellFormed`. -/
inductive Instr where
  -- unit 0x0 SYS
  | nop
  | status
  | reset
  -- unit 0x1 CRC9
  | crc9Clr
  | crc9Feed (n : BitVec 4) (b : Byte)
  | crc9Fin
  | crc9Rd
  -- unit 0x2 CRC16
  | crc16Clr
  | crc16Feed (b : Byte)
  | crc16Fin
  | crc16Rd
  -- unit 0x3 CRC32
  | crc32Clr
  | crc32Feed (b : Byte)
  | crc32Fin
  | crc32Rd
  -- unit 0x4 CRC16T
  | crc16tClr
  | crc16tFeed (b : Byte)
  | crc16tRd
  | crc16tSet (v : BitVec 16)
  | crc16tTab (i : Byte)
  -- unit 0x5 H15
  | h15Par (d : BitVec 11)
  | h15Chk (w : BitVec 15)
  | h15Pos (s : BitVec 4)
  | h15Cor (w : BitVec 15)
  -- unit 0x6 H13
  | h13Par (d : BitVec 9)
  | h13Chk (w : BitVec 13)
  | h13Pos (s : BitVec 4)
  | h13Cor (w : BitVec 13)
  -- unit 0x7 H16
  | h16Par (d : BitVec 11)
  | h16Chk (w : BitVec 16)
  | h16Pos (s : BitVec 5)
  | h16Cor (w : BitVec 16)
  -- unit 0x8 GOLAY
  | golayPar (d : BitVec 8)
  | golayChk (w : BitVec 20)
  -- unit 0x9 QR
  | qrPar (d : BitVec 7)
  | qrChk (w : BitVec 16)
  | qrEnc (d : BitVec 7)
  -- unit 0xA RS
  | rsLd (i : BitVec 4) (b : Byte)
  | rsRd (i : BitVec 4)
  | rsEnc
  | rsSyn
  | rsDec
  | rsMul (a b : Byte)
  | rsExp (i : Byte)
  | rsLog (v : Byte)
  -- unit 0xB BPTC and the buffers
  | inLdb (i : BitVec 5) (b : Byte)
  | inRdb (i : BitVec 5)
  | mxLdb (i : BitVec 5) (b : Byte)
  | mxRdb (i : BitVec 5)
  | datLdb (i : BitVec 4) (b : Byte)
  | datRdb (i : BitVec 4)
  | bptcDeint
  | bptcRepair
  | bptcExtract
  | bptcEnc
  | bptcInt
  | bptcDm (a : Byte)
deriving DecidableEq, Repr

end Sys2Proof
end

