-- ==== Sys2Proof/WellFormed.lean ====
section
/-! DEFINITION. The operand-range checks of `30_encoding.md` R107 (c): the only operand values that fit their field and are
illegal all the same. -/

namespace Sys2Proof

/-- The legal bit counts of `CRC9.FEED`: 1 to 8 (R107, R176). -/
def legalFeedCount (n : BitVec 4) : Bool := decide (1 ≤ n.toNat ∧ n.toNat ≤ 8)

/-- The legal indices of the 12-byte spaces `DAT` and `RS`: 0 to 11 (R70, R107). -/
def legalIndex12 (i : BitVec 4) : Bool := decide (i.toNat ≤ 11)

/-- The legal byte indices of the 196-bit buffers `IN` and `MX`: 0 to 24 (R70, R107). -/
def legalIndex25 (i : BitVec 5) : Bool := decide (i.toNat ≤ 24)

/-- The legal indices of `ROM.DM`: 0 to 195 (R45, R107). -/
def legalDmIndex (a : Byte) : Bool := decide (a.toNat ≤ 195)

/-- Every operand of the command is in its legal range: the negation of R107 (c). -/
def Instr.wellFormed : Instr → Bool
  | .crc9Feed n _ => legalFeedCount n
  | .rsLd i _ => legalIndex12 i
  | .rsRd i => legalIndex12 i
  | .datLdb i _ => legalIndex12 i
  | .datRdb i => legalIndex12 i
  | .inLdb i _ => legalIndex25 i
  | .inRdb i => legalIndex25 i
  | .mxLdb i _ => legalIndex25 i
  | .mxRdb i => legalIndex25 i
  | .bptcDm a => legalDmIndex a
  | .nop => true
  | .status => true
  | .reset => true
  | .crc9Clr => true
  | .crc9Fin => true
  | .crc9Rd => true
  | .crc16Clr => true
  | .crc16Feed _ => true
  | .crc16Fin => true
  | .crc16Rd => true
  | .crc32Clr => true
  | .crc32Feed _ => true
  | .crc32Fin => true
  | .crc32Rd => true
  | .crc16tClr => true
  | .crc16tFeed _ => true
  | .crc16tRd => true
  | .crc16tSet _ => true
  | .crc16tTab _ => true
  | .h15Par _ => true
  | .h15Chk _ => true
  | .h15Pos _ => true
  | .h15Cor _ => true
  | .h13Par _ => true
  | .h13Chk _ => true
  | .h13Pos _ => true
  | .h13Cor _ => true
  | .h16Par _ => true
  | .h16Chk _ => true
  | .h16Pos _ => true
  | .h16Cor _ => true
  | .golayPar _ => true
  | .golayChk _ => true
  | .qrPar _ => true
  | .qrChk _ => true
  | .qrEnc _ => true
  | .rsEnc => true
  | .rsSyn => true
  | .rsDec => true
  | .rsMul _ _ => true
  | .rsExp _ => true
  | .rsLog _ => true
  | .bptcDeint => true
  | .bptcRepair => true
  | .bptcExtract => true
  | .bptcEnc => true
  | .bptcInt => true

end Sys2Proof
end

