-- ==== Sys2Proof/Decode.lean ====
section
/-! DEFINITION. The decoder and the encoder of command words, both written from the opcode map of `30_encoding.md` R101 to
R106: `decode` selects the row by the opcode byte and checks the reserved bits (R123, causes 1 and 2), `classify` is the
whole procedure of R123 with the operand-range check (cause 3), `encode` is the word of a command. -/

namespace Sys2Proof

/-- The operand formats of `30_encoding.md` R102. -/
inductive Format where
  /-- No operand. -/
  | z
  /-- One operand of `k` bits in `arg[k-1:0]`. -/
  | w (k : Nat)
  /-- `x = arg[8+j-1:8]` and `b = arg[7:0]`. -/
  | xb (j : Nat)
  /-- `x = arg[8+j-1:8]`, with `arg[7:0]` reserved. -/
  | x (j : Nat)
deriving DecidableEq, Repr

/-- The `arg` bits a format uses for operands; the others are reserved (R102). -/
def operandBits : Format → BitVec 24
  | .z => 0#24
  | .w k => BitVec.ofNat 24 (2 ^ k - 1)
  | .xb j => BitVec.ofNat 24 (2 ^ (8 + j) - 1)
  | .x j => BitVec.ofNat 24 ((2 ^ j - 1) * 2 ^ 8)

/-- One row of the opcode map (R106): its opcode byte, its format, and the command its operand bits make. -/
structure Row where
  op : BitVec 8
  format : Format
  build : BitVec 24 → Instr

/-- The row's `mask`: the opcode byte and the reserved bits (R104). -/
def rowMask (r : Row) : Word := 0xFF#8 ++ ~~~(operandBits r.format)

/-- The row's `match` (R106). -/
def rowMatch (r : Row) : Word := r.op ++ 0#24

/-- `op = cmd[31:24]` (R101). -/
def opByte (cmd : Word) : BitVec 8 := cmd.extractLsb' 24 8

/-- `arg = cmd[23:0]` (R101). -/
def argField (cmd : Word) : BitVec 24 := cmd.extractLsb' 0 24

/-- The operand of format `W(k)`: `arg[k-1:0]` (R102). -/
def argW (k : Nat) (arg : BitVec 24) : BitVec k := arg.extractLsb' 0 k

/-- The operand `x` of formats `XB(j)` and `X(j)`: `arg[8+j-1:8]` (R102). -/
def argX (j : Nat) (arg : BitVec 24) : BitVec j := arg.extractLsb' 8 j

/-- The operand `b` of format `XB(j)`: `arg[7:0]` (R102). -/
def argB (arg : BitVec 24) : Byte := arg.extractLsb' 0 8

/-- The rows of units 0x0 to 0x4 (R106). -/
def rowsSysCrc : List Row := [
  ⟨0x00, .z, fun _ => .nop⟩,
  ⟨0x01, .z, fun _ => .status⟩,
  ⟨0x02, .z, fun _ => .reset⟩,
  ⟨0x10, .z, fun _ => .crc9Clr⟩,
  ⟨0x11, .xb 4, fun a => .crc9Feed (argX 4 a) (argB a)⟩,
  ⟨0x12, .z, fun _ => .crc9Fin⟩,
  ⟨0x13, .z, fun _ => .crc9Rd⟩,
  ⟨0x20, .z, fun _ => .crc16Clr⟩,
  ⟨0x21, .w 8, fun a => .crc16Feed (argW 8 a)⟩,
  ⟨0x22, .z, fun _ => .crc16Fin⟩,
  ⟨0x23, .z, fun _ => .crc16Rd⟩,
  ⟨0x30, .z, fun _ => .crc32Clr⟩,
  ⟨0x31, .w 8, fun a => .crc32Feed (argW 8 a)⟩,
  ⟨0x32, .z, fun _ => .crc32Fin⟩,
  ⟨0x33, .z, fun _ => .crc32Rd⟩,
  ⟨0x40, .z, fun _ => .crc16tClr⟩,
  ⟨0x41, .w 8, fun a => .crc16tFeed (argW 8 a)⟩,
  ⟨0x43, .z, fun _ => .crc16tRd⟩,
  ⟨0x44, .w 16, fun a => .crc16tSet (argW 16 a)⟩,
  ⟨0x45, .w 8, fun a => .crc16tTab (argW 8 a)⟩]

/-- The rows of units 0x5 to 0x9 (R106). -/
def rowsCodes : List Row := [
  ⟨0x50, .w 11, fun a => .h15Par (argW 11 a)⟩,
  ⟨0x51, .w 15, fun a => .h15Chk (argW 15 a)⟩,
  ⟨0x52, .w 4, fun a => .h15Pos (argW 4 a)⟩,
  ⟨0x53, .w 15, fun a => .h15Cor (argW 15 a)⟩,
  ⟨0x60, .w 9, fun a => .h13Par (argW 9 a)⟩,
  ⟨0x61, .w 13, fun a => .h13Chk (argW 13 a)⟩,
  ⟨0x62, .w 4, fun a => .h13Pos (argW 4 a)⟩,
  ⟨0x63, .w 13, fun a => .h13Cor (argW 13 a)⟩,
  ⟨0x70, .w 11, fun a => .h16Par (argW 11 a)⟩,
  ⟨0x71, .w 16, fun a => .h16Chk (argW 16 a)⟩,
  ⟨0x72, .w 5, fun a => .h16Pos (argW 5 a)⟩,
  ⟨0x73, .w 16, fun a => .h16Cor (argW 16 a)⟩,
  ⟨0x80, .w 8, fun a => .golayPar (argW 8 a)⟩,
  ⟨0x81, .w 20, fun a => .golayChk (argW 20 a)⟩,
  ⟨0x90, .w 7, fun a => .qrPar (argW 7 a)⟩,
  ⟨0x91, .w 16, fun a => .qrChk (argW 16 a)⟩,
  ⟨0x92, .w 7, fun a => .qrEnc (argW 7 a)⟩]

/-- The rows of units 0xA and 0xB (R106). -/
def rowsBuffers : List Row := [
  ⟨0xA0, .xb 4, fun a => .rsLd (argX 4 a) (argB a)⟩,
  ⟨0xA1, .x 4, fun a => .rsRd (argX 4 a)⟩,
  ⟨0xA2, .z, fun _ => .rsEnc⟩,
  ⟨0xA3, .z, fun _ => .rsSyn⟩,
  ⟨0xA4, .z, fun _ => .rsDec⟩,
  ⟨0xA5, .xb 8, fun a => .rsMul (argX 8 a) (argB a)⟩,
  ⟨0xA6, .w 8, fun a => .rsExp (argW 8 a)⟩,
  ⟨0xA7, .w 8, fun a => .rsLog (argW 8 a)⟩,
  ⟨0xB0, .xb 5, fun a => .inLdb (argX 5 a) (argB a)⟩,
  ⟨0xB1, .x 5, fun a => .inRdb (argX 5 a)⟩,
  ⟨0xB2, .xb 5, fun a => .mxLdb (argX 5 a) (argB a)⟩,
  ⟨0xB3, .x 5, fun a => .mxRdb (argX 5 a)⟩,
  ⟨0xB4, .xb 4, fun a => .datLdb (argX 4 a) (argB a)⟩,
  ⟨0xB5, .x 4, fun a => .datRdb (argX 4 a)⟩,
  ⟨0xB6, .z, fun _ => .bptcDeint⟩,
  ⟨0xB7, .z, fun _ => .bptcRepair⟩,
  ⟨0xB8, .z, fun _ => .bptcExtract⟩,
  ⟨0xB9, .z, fun _ => .bptcEnc⟩,
  ⟨0xBA, .z, fun _ => .bptcInt⟩,
  ⟨0xBB, .w 8, fun a => .bptcDm (argW 8 a)⟩]

/-- The complete opcode map, 57 rows (R106). -/
def rows : List Row := rowsSysCrc ++ (rowsCodes ++ rowsBuffers)

/-- The row of an opcode byte, if it is one of the 57 (R106, R123). -/
def rowOf (op : BitVec 8) : Option Row := rows.find? (fun r => r.op == op)

/-- Row selection, reserved-bit check and operand extraction (R123), total on all words. An operand outside its range is
still read as it stands: the command that takes it raises cause 3 when it is executed (R381; assumption 5). -/
def decode (cmd : Word) : Except IllegalCode Instr :=
  match rowOf (opByte cmd) with
  | none => .error .unknownOpcode
  | some r => if cmd &&& rowMask r = rowMatch r then .ok (r.build (argField cmd)) else .error .reservedBits

/-- The whole decoding procedure of R123: `decode`, then the operand-range check of R107 (c). -/
def classify (cmd : Word) : Except IllegalCode Instr :=
  match decode cmd with
  | .error c => .error c
  | .ok i => if i.wellFormed then .ok i else .error .operandRange

/-- A command word from its two fields (R101). -/
def commandWord (op : BitVec 8) (arg : BitVec 24) : Word := op ++ arg

/-- The `arg` field of format `W(k)` (R102). -/
def encW {k : Nat} (v : BitVec k) : BitVec 24 := v.setWidth 24

/-- The `arg` field of format `XB(j)` (R102). -/
def encXB {j : Nat} (x : BitVec j) (b : Byte) : BitVec 24 := (x ++ b).setWidth 24

/-- The `arg` field of format `X(j)` (R102). -/
def encX {j : Nat} (x : BitVec j) : BitVec 24 := (x ++ 0#8).setWidth 24

/-- The command word of a command (R101, R102, R106). -/
def encode : Instr → Word
  | .nop => commandWord 0x00 0
  | .status => commandWord 0x01 0
  | .reset => commandWord 0x02 0
  | .crc9Clr => commandWord 0x10 0
  | .crc9Feed n b => commandWord 0x11 (encXB n b)
  | .crc9Fin => commandWord 0x12 0
  | .crc9Rd => commandWord 0x13 0
  | .crc16Clr => commandWord 0x20 0
  | .crc16Feed b => commandWord 0x21 (encW b)
  | .crc16Fin => commandWord 0x22 0
  | .crc16Rd => commandWord 0x23 0
  | .crc32Clr => commandWord 0x30 0
  | .crc32Feed b => commandWord 0x31 (encW b)
  | .crc32Fin => commandWord 0x32 0
  | .crc32Rd => commandWord 0x33 0
  | .crc16tClr => commandWord 0x40 0
  | .crc16tFeed b => commandWord 0x41 (encW b)
  | .crc16tRd => commandWord 0x43 0
  | .crc16tSet v => commandWord 0x44 (encW v)
  | .crc16tTab i => commandWord 0x45 (encW i)
  | .h15Par d => commandWord 0x50 (encW d)
  | .h15Chk w => commandWord 0x51 (encW w)
  | .h15Pos s => commandWord 0x52 (encW s)
  | .h15Cor w => commandWord 0x53 (encW w)
  | .h13Par d => commandWord 0x60 (encW d)
  | .h13Chk w => commandWord 0x61 (encW w)
  | .h13Pos s => commandWord 0x62 (encW s)
  | .h13Cor w => commandWord 0x63 (encW w)
  | .h16Par d => commandWord 0x70 (encW d)
  | .h16Chk w => commandWord 0x71 (encW w)
  | .h16Pos s => commandWord 0x72 (encW s)
  | .h16Cor w => commandWord 0x73 (encW w)
  | .golayPar d => commandWord 0x80 (encW d)
  | .golayChk w => commandWord 0x81 (encW w)
  | .qrPar d => commandWord 0x90 (encW d)
  | .qrChk w => commandWord 0x91 (encW w)
  | .qrEnc d => commandWord 0x92 (encW d)
  | .rsLd i b => commandWord 0xA0 (encXB i b)
  | .rsRd i => commandWord 0xA1 (encX i)
  | .rsEnc => commandWord 0xA2 0
  | .rsSyn => commandWord 0xA3 0
  | .rsDec => commandWord 0xA4 0
  | .rsMul a b => commandWord 0xA5 (encXB a b)
  | .rsExp i => commandWord 0xA6 (encW i)
  | .rsLog v => commandWord 0xA7 (encW v)
  | .inLdb i b => commandWord 0xB0 (encXB i b)
  | .inRdb i => commandWord 0xB1 (encX i)
  | .mxLdb i b => commandWord 0xB2 (encXB i b)
  | .mxRdb i => commandWord 0xB3 (encX i)
  | .datLdb i b => commandWord 0xB4 (encXB i b)
  | .datRdb i => commandWord 0xB5 (encX i)
  | .bptcDeint => commandWord 0xB6 0
  | .bptcRepair => commandWord 0xB7 0
  | .bptcExtract => commandWord 0xB8 0
  | .bptcEnc => commandWord 0xB9 0
  | .bptcInt => commandWord 0xBA 0
  | .bptcDm a => commandWord 0xBB (encW a)

/-- The 32-bit command word whose low `nbits` bits are `w`'s and whose other bits are 0. -/
def tableWord (nbits w : Nat) : Word := BitVec.ofNat 32 (w % 2 ^ nbits)

/-- The command that `decode` reads from a word of the opcode table; a command is one 32-bit value, so its bits are the
table's bits (R100). -/
def decodeTableWord (nbits w : Nat) : Option Instr := (decode (tableWord nbits w)).toOption

end Sys2Proof
end

