-- ==== Sys2Proof/Machine/Bits.lean ====
section
/-! DEFINITION. Bit strings in sequence order (`00_scope.md` R9) and the bit and byte primitives of `40_bits_sys_buffers.md`
R140 to R143. A bit string of length `n` is the bit vector `val` of it: element `i` is the bit of weight `2^(n-1-i)`
(assumption 10), so `bits_N` and `val` are both the identity on `BitVec N`. -/

namespace Sys2Proof.Machine

/-- Element `i` of a bit string, in sequence order; 0 beyond its end (R9, and the "taken as 0" of R72). -/
def bitAt {n : Nat} (s : BitVec n) (i : Nat) : Bool := s.getMsbD i

/-- The bit string of length `n` whose element `i` is `f i`. -/
def ofBits : (n : Nat) → (Nat → Bool) → BitVec n
  | 0, _ => 0#0
  | n + 1, f => (ofBits n f).concat (f n)

/-- The bit string with element `i` flipped (unchanged when `i` is beyond its end). -/
def flipBit {n : Nat} (s : BitVec n) (i : Nat) : BitVec n :=
  if i < n then s ^^^ BitVec.twoPow n (n - 1 - i) else s

/-- The bits of a byte in sequence order, `bits_8` (R9, R71). -/
def byteBits (y : Byte) : List Bool := (List.range 8).map (bitAt y)

/-- `bits_from_bytes` (R140): each byte's bits, MSB first. -/
def bitsFromBytes : List Byte → List Bool
  | [] => []
  | y :: ys => byteBits y ++ bitsFromBytes ys

/-- `val` of up to eight bits of a list as one byte, a missing bit counting as 0 (R9, R141). -/
def byteOfBits (bits : List Bool) : Byte := ofBits 8 (fun k => bits.getD k false)

/-- `bytes_from_bits` (R141): `⌈L/8⌉` bytes, zero-padded. -/
def bytesFromBits (bits : List Bool) : List Byte :=
  (List.range ((bits.length + 7) / 8)).map (fun i => byteOfBits (bits.drop (8 * i)))

/-- Dibit `j` of a bit sequence (R143). DESIGN CHOICE (assumption 19): a bit beyond the end of the sequence is 0; the rule does
not say what a group holds where the length is no multiple of 2, or `j` lies past the end. -/
def dibit (bits : List Bool) (j : Nat) : Bool × Bool :=
  (bits.getD (2 * j) false, bits.getD (2 * j + 1) false)

/-- Tribit `j` of a bit sequence (R143). DESIGN CHOICE (assumption 19): a bit beyond the end of the sequence is 0, as for
`dibit`. -/
def tribit (bits : List Bool) (j : Nat) : Bool × Bool × Bool :=
  (bits.getD (3 * j) false, bits.getD (3 * j + 1) false, bits.getD (3 * j + 2) false)

/-- The byte at byte index `i` of a bit buffer, `MemRead(B:i, 1)` (R72). -/
def memRead {n : Nat} (buf : BitVec n) (i : Nat) : Byte := ofBits 8 (fun k => bitAt buf (8 * i + k))

/-- The bit buffer after `MemWrite(B:i, 1, b)` (R72): bits of the byte beyond the end of the buffer are ignored. -/
def memWrite {n : Nat} (buf : BitVec n) (i : Nat) (b : Byte) : BitVec n :=
  ofBits n (fun j => if 8 * i ≤ j ∧ j < 8 * i + 8 then bitAt b (j - 8 * i) else bitAt buf j)

end Sys2Proof.Machine
end

