-- ==== Sys2Proof/Config.lean ====
section
/-! DEFINITION. The implementation parameters of `00_scope.md` R7, as one structure. The values this hardware takes are
`Sys2Proof.Machine.params` (Sys2Proof/Machine/Params.lean), so that a claim can be stated for all values or for these.
`Sys2Proof.Machine.stepWith` (Sys2Proof/Machine/Parametric.lean) is the machine for any values. The fields of the command word
(R101) and the response layouts (R120) fix `CMD_W` and `RSP_W` at 32, the width of `Word` (assumption 11). The value of
`LATENCY` is open (assumption 8). -/

namespace Sys2Proof

/-- The parameters of `00_scope.md` R7. A generator of `k` rows of `m` bits is a vector of `k` bit strings of `m` bits,
each written as the number `val` of its row (R9). -/
structure Config where
  /-- `CMD_W`, the width of a command word (R7, D2). -/
  cmdW : Nat
  /-- `RSP_W`, the width of a response word (R7, D2). -/
  rspW : Nat
  /-- `CRC9_POLY` (R174). -/
  crc9Poly : BitVec 9
  /-- Number of zero shifts of `CRC9.FIN` (R174, conflict C1). -/
  crc9Fin : Nat
  /-- `CRC16_POLY` (R184). -/
  crc16Poly : BitVec 16
  /-- Number of zero shifts of `CRC16.FIN` (R184). -/
  crc16Fin : Nat
  /-- `CRC32_POLY` (R190). -/
  crc32Poly : BitVec 32
  /-- Number of zero shifts of `CRC32.FIN` (R190). -/
  crc32Fin : Nat
  /-- `CRC16T_POLY` (R200). -/
  crc16tPoly : BitVec 16
  /-- `CRC16T_INIT` (R202, R50). -/
  crc16tInit : BitVec 16
  /-- `G_H15` (R222). -/
  gH15 : Vector (BitVec 4) 11
  /-- `G_H13` (R232). -/
  gH13 : Vector (BitVec 4) 9
  /-- `G_H16` (R242). -/
  gH16 : Vector (BitVec 5) 11
  /-- `G_GOLAY` (R260). -/
  gGolay : Vector (BitVec 12) 8
  /-- `G_QR` (R270). -/
  gQr : Vector (BitVec 9) 7
  /-- `GF_POLY`, the field polynomial with its leading coefficient (R291). -/
  gfPoly : BitVec 9
  /-- `RS_GEN`, ascending degree (R300). -/
  rsGen : Vector Byte 4
  /-- `BPTC_MUL` (R340). -/
  bptcMul : Nat
  /-- `BPTC_LEN` (R340). -/
  bptcLen : Nat
  /-- `LATENCY`, the cycles from a command to its response, possibly different for each command word (R7, R427, D25). No rule
  uses it. -/
  latency : Word → Nat

/-- The open value of `LATENCY`: the spec gives none, so nothing can be proved of it (R427, D25; assumption 8). -/
opaque openLatency : Word → Nat

end Sys2Proof
end

