-- ==== Sys2Proof/Machine/Params.lean ====
section
/-! DEFINITION. The parameter values this hardware takes (`00_scope.md` R7). UNVERIFIED, unsafe (assumption 7): `gH13` row 2,
`gH16`, `gGolay`, `gQr`, `gfPoly` and the table-driven CRC-16 are marked by the spec itself as supplied from general
knowledge (`93_implementation_defined.md` U12, G1 to G6). -/

namespace Sys2Proof.Machine

/-- The value of every parameter of R7 for this hardware. -/
def params : Config where
  cmdW := 32
  rspW := 32
  crc9Poly := 0x059
  crc9Fin := 8
  crc16Poly := 0x1021
  crc16Fin := 16
  crc32Poly := 0x04C11DB7
  crc32Fin := 32
  crc16tPoly := 0x8408
  crc16tInit := 0x0000
  gH15 := #v[0x9, 0xD, 0xF, 0xE, 0x7, 0xA, 0x5, 0xB, 0xC, 0x6, 0x3]
  gH13 := #v[0xF, 0xE, 0x7, 0xA, 0x5, 0xB, 0xC, 0x6, 0x3]
  gH16 := #v[0x13, 0x1A, 0x1F, 0x1C, 0x0E, 0x15, 0x0B, 0x16, 0x19, 0x0D, 0x07]
  gGolay := #v[0x3DA, 0xD99, 0x6CD, 0x367, 0xDC6, 0xA97, 0x93E, 0x8EB]
  gQr := #v[0x04F, 0x11E, 0x1B7, 0x1E2, 0x1C9, 0x0E5, 0x073]
  gfPoly := 0x11D
  rsGen := #v[0x40, 0x38, 0x0E, 0x01]
  bptcMul := 181
  bptcLen := 196
  latency := openLatency

end Sys2Proof.Machine
end

