-- ==== Sys2Proof/Machine/State.lean ====
section
/-! DEFINITION. The state of one instance of the block (`10_state.md` R30), the command port it is seen through
(`92_eei_decisions.md` D1), and the values after reset (R50). -/

namespace Sys2Proof.Machine

/-- The `STATUS` register: the five fields of R40. Its bits 29:24 and 7:4 are reserved, are never written and read as 0, so
they hold nothing (assumption 13). -/
structure Status where
  /-- `ST`, bits 31:30: the result category of the last result-writing command (R48). -/
  st : BitVec 2
  /-- `CNT`, bits 23:16: how many bits or symbols that command changed (R48). -/
  cnt : BitVec 8
  /-- `POS`, bits 15:8: the position that command reports (R48). -/
  pos : BitVec 8
  /-- `ECODE`, bits 3:1: the cause code of the first illegal command since reset (R41). -/
  ecode : BitVec 3
  /-- `FAULT`, bit 0: an illegal command has been issued since reset (R41). -/
  fault : Bool
deriving DecidableEq, Repr

/-- The complete state of one instance of the block, the nine elements of R30 and nothing else. -/
structure Block where
  /-- `CRC9`, the CRC-9 shift register (R31). -/
  crc9 : BitVec 9
  /-- `CRC16`, the bit-serial CRC-16 shift register (R32). -/
  crc16 : BitVec 16
  /-- `CRC32`, the CRC-32 shift register (R33). -/
  crc32 : BitVec 32
  /-- `CRC16T`, the accumulator of the table-driven CRC-16 (R34). -/
  crc16t : BitVec 16
  /-- `IN`, the 196 INFO bits as transmitted, a bit string (R35). -/
  inBuf : BitVec 196
  /-- `MX`, the deinterleaved bits: R(3), then the 13 by 15 matrix (R36, R37). -/
  mx : BitVec 196
  /-- `DAT`, the 96 data bits (R38). -/
  dat : BitVec 96
  /-- `RS`, the Reed-Solomon code word: nine data bytes, then three check bytes (R39). -/
  rs : Vector Byte 12
  /-- `STATUS` (R40). -/
  status : Status
deriving DecidableEq, Repr

/-- What the host presents at the command port for one step (D1, R391): the reset pin, and a command word or none. -/
structure PortInput where
  rst : Bool
  cmd : Option Word
deriving DecidableEq, Repr

/-- The answer to one accepted command (R120): the response word and the error bit. -/
structure Response where
  rsp : Word
  err : Bool
deriving DecidableEq, Repr

/-- The block with its command port. `block` is all the spec's state; `inputs` and `out` are the model's own: what the host
will present, the next first (R47: the list of commands is the host's; assumption 1), and the response of the step just taken,
none where that step accepted no command (assumption 2). -/
structure State where
  block : Block
  inputs : List PortInput
  out : Option Response
deriving DecidableEq, Repr

/-- No step of this block ends in a fault: "It is never stuck" (R385), an illegal command has a next state (R383). The type
is empty, which is the safe reading of that rule: nothing can be proved to stop. -/
inductive Fault where
deriving DecidableEq, Repr

/-- Why a step can be refused. -/
inductive Refusal where
  /-- Raised by `exec` alone, for a command that has no meaning in the model yet; safe, since it stops. No arm of `exec`
  raises it any more: every command has its meaning. -/
  | notModelled (mnemonic : String)
deriving DecidableEq, Repr

/-- The result categories of the FEC units (`00_scope.md` R12). -/
inductive Category where
  /-- Code 0: the word passes its check. -/
  | clean
  /-- Code 1: one or more bits or symbols were changed. -/
  | corrected
  /-- Code 2: the word fails its check and no correction exists ("fatal"). -/
  | uncorrectable
deriving DecidableEq, Repr

/-- `STATUS` after reset (R50). -/
def Status.reset : Status := { st := 0, cnt := 0, pos := 0, ecode := 0, fault := false }

/-- The block after reset, by the pin or by the `RESET` command (R50, R420). For any parameters `p` (R7). -/
def Block.resetWith (p : Config) : Block where
  crc9 := 0
  crc16 := 0
  crc32 := 0
  crc16t := p.crc16tInit
  inBuf := 0
  mx := 0
  dat := 0
  rs := Vector.replicate 12 0
  status := Status.reset

/-- The block after reset, for the parameters of this hardware: every element 0 (R50). -/
def Block.reset : Block := Block.resetWith params

/-- The machine right after reset (R50, R421): the block at its reset values, nothing presented at the port, no response. -/
def State.reset : State := { block := Block.reset, inputs := [], out := none }

end Sys2Proof.Machine
end

