-- ==== Sys2Proof/Machine/Flags.lean ====
section
/-! DEFINITION. The fields of `STATUS`: the codes of R12 and R381, the register as a word (R40), the sticky fault record
(R41) and the result fields (R48). -/

namespace Sys2Proof.Machine

/-- The 2-bit code `st` of a result category (R12). -/
def categoryCode : Category → BitVec 2
  | .clean => 0
  | .corrected => 1
  | .uncorrectable => 2

/-- The 3-bit cause code of an illegal command (R381). -/
def causeCode : IllegalCode → BitVec 3
  | .unknownOpcode => 1
  | .reservedBits => 2
  | .operandRange => 3

/-- `STATUS` as the 32-bit word the host reads (R40): the reserved bits read as 0. -/
def statusWord (r : Status) : Word :=
  r.st ++ 0#6 ++ r.cnt ++ r.pos ++ 0#4 ++ r.ecode ++ BitVec.ofBool r.fault

/-- The record of an illegal command (R41): `FAULT <- 1`, and `ECODE` takes the code only where `FAULT` was 0. -/
def recordIllegal (r : Status) (code : IllegalCode) : Status :=
  { r with ecode := if r.fault then r.ecode else causeCode code, fault := true }

/-- The result fields `ST`, `POS`, `CNT`, written together (R48). -/
def recordResult (r : Status) (cat : Category) (pos cnt : Nat) : Status :=
  { r with st := categoryCode cat, pos := BitVec.ofNat 8 pos, cnt := BitVec.ofNat 8 cnt }

/-- `CNT` of a command that corrects at most one bit or symbol: 1 when corrected, else 0 (R48). -/
def correctionCount : Category → Nat
  | .clean => 0
  | .corrected => 1
  | .uncorrectable => 0

end Sys2Proof.Machine
end

