-- ==== Sys2Proof/Machine/Ops.lean ====
section
/-! DEFINITION. The shared operations of a step: answering a legal command, raising `IllegalCommand` (the block's one
exception), reset, and taking what the host presents at the port. The exception has no entry sequence beyond this and no
return: there is no vector, no saved state but `STATUS`, and no return instruction (`60_exceptions.md` R392, R393). -/

namespace Sys2Proof.Machine

/-- A legal command completes: the block's new state and the response `rsp`, with `err = 0` (R120). -/
def State.reply (s : State) (b : Block) (rsp : Word) : Host.Outcome State Fault Refusal :=
  .next { s with block := b, out := some { rsp := rsp, err := false } }

/-- `raise IllegalCommand(code)` (R383): `rsp = 0`, `err = 1`, the record in `STATUS`, and nothing else changes. -/
def State.raiseIllegal (s : State) (code : IllegalCode) : Host.Outcome State Fault Refusal :=
  .next { s with
    block := { s.block with status := recordIllegal s.block.status code }
    out := some { rsp := 0, err := true } }

/-- The reset pin (R420, R421): the block's reset values, and no response. For any parameters `p` (R7). -/
def State.pinResetWith (p : Config) (s : State) : State := { s with block := Block.resetWith p, out := none }

/-- The reset pin, for the parameters of this hardware. -/
def State.pinReset (s : State) : State := s.pinResetWith params

/-- A step on which no command is accepted: the block waits, unchanged, and gives no response (R421, R428; assumption 4). -/
def State.idle (s : State) : State := { s with out := none }

/-- Take what the host presents next (D1): the command word accepted, if any, and the state it is executed in. Reset wins over
a command presented with it: that command is not accepted (R391; assumption 6). For any parameters `p` (R7). -/
def State.acceptWith (p : Config) (s : State) : Option Word × State :=
  match s.inputs with
  | [] => (none, s.idle)
  | x :: rest =>
    if x.rst then (none, State.pinResetWith p { s with inputs := rest })
    else match x.cmd with
      | none => (none, State.idle { s with inputs := rest })
      | some w => (some w, { s with inputs := rest })

/-- Take what the host presents next, for the parameters of this hardware. -/
def State.accept (s : State) : Option Word × State := s.acceptWith params

/-- The state in which the host presents the command word `w` next, before all it would have presented. -/
def State.present (s : State) (w : Word) : State :=
  { s with inputs := { rst := false, cmd := some w } :: s.inputs }

end Sys2Proof.Machine
end

