-- ==== Sys2Proof/Machine/Operands.lean ====
section
/-! DEFINITION. The operand-range checks of `30_encoding.md` R107 (c) as the meanings make them, and the response layouts of
R120. -/

namespace Sys2Proof.Machine

/-- The bit count of `CRC9.FEED`, if it is legal: 1 to 8 (R176). -/
def feedCount (n : BitVec 4) : Option Nat :=
  if 1 ≤ n.toNat ∧ n.toNat ≤ 8 then some n.toNat else none

/-- An index into a space of `limit` elements, if it is inside it (R70, R76). -/
def spaceIndex {k : Nat} (limit : Nat) (i : BitVec k) : Option (Fin limit) :=
  if h : i.toNat < limit then some ⟨i.toNat, h⟩ else none

/-- Layout `VAL(k)`: a value, zero-extended (R120). -/
def rspVal {k : Nat} (v : BitVec k) : Word := v.setWidth 32

/-- Layout `IDX`: the answer in the low bits, or bit 31 alone when there is none (R120). -/
def rspIdx : Option Nat → Word
  | none => 0x80000000#32
  | some i => BitVec.ofNat 32 i

/-- Layout `COR`: category, position, code word (R120). -/
def rspCor {n : Nat} (cat : Category) (pos : Nat) (word : BitVec n) : Word :=
  categoryCode cat ++ 0#1 ++ BitVec.ofNat 5 pos ++ 0#8 ++ word.setWidth 16

/-- Layout `CHK`: category and syndrome (R120). -/
def rspChk {m : Nat} (cat : Category) (syn : BitVec m) : Word :=
  categoryCode cat ++ 0#18 ++ syn.setWidth 12

/-- Layout `DEC`: category, position, error magnitude (R120). -/
def rspDec (cat : Category) (pos : Nat) (magnitude : Byte) : Word :=
  categoryCode cat ++ 0#2 ++ BitVec.ofNat 4 pos ++ 0#16 ++ magnitude

/-- Layout `REP`: category, number of flips, position of the last (R120). -/
def rspRep (cat : Category) (cnt pos : Nat) : Word :=
  categoryCode cat ++ 0#6 ++ BitVec.ofNat 8 cnt ++ 0#8 ++ BitVec.ofNat 8 pos

end Sys2Proof.Machine
end

