-- ==== Sys2Proof/Machine/Hamming.lean ====
section
/-! DEFINITION. The Hamming units H15, H13, H16 (`42_hamming.md`), over one parity, syndrome, search and correction for any
generator of `k` rows of `m` bits (R220, R221). Only the `COR` commands write `STATUS`. -/

namespace Sys2Proof.Machine

/-- `ham_par(G, d)` (R220): the XOR of the rows of `G` whose data bit is 1. -/
def hamPar {k m : Nat} (G : Vector (BitVec m) k) (d : BitVec k) : BitVec m :=
  (List.finRange k).foldl (fun p (i : Fin k) => if bitAt d i.val then p ^^^ G[i] else p) 0#m

/-- The data bits `w[0..k-1]` of a code word (R220). -/
def codeData (k m : Nat) (w : BitVec (k + m)) : BitVec k := w.extractLsb' m k

/-- The parity bits `w[k..n-1]` of a code word (R220). -/
def codeParity (k m : Nat) (w : BitVec (k + m)) : BitVec m := w.extractLsb' 0 m

/-- `ham_syn(G, w)` (R220): recomputed parity XOR received parity. -/
def hamSyn {k m : Nat} (G : Vector (BitVec m) k) (w : BitVec (k + m)) : BitVec m :=
  hamPar G (codeData k m w) ^^^ codeParity k m w

/-- The `m`-bit string with a single 1 at index `j` (R221). -/
def unitRow (m j : Nat) : BitVec m := ofBits m (fun i => i == j)

/-- `ham_rows(G)` (R221): the rows of `G`, then the unit rows of the parity bits. -/
def hamRows {k m : Nat} (G : Vector (BitVec m) k) : List (BitVec m) :=
  G.toList ++ (List.range m).map (unitRow m)

/-- `ham_pos(G, s)` (R221): the index of the row equal to the syndrome, if there is one (assumption 14). -/
def hamPos {k m : Nat} (G : Vector (BitVec m) k) (syn : BitVec m) : Option Nat :=
  (hamRows G).findIdx? (fun r => r == syn)

/-- What `ham_cor` returns (R221): the category, the position, and the word after the correction. -/
structure HamResult (n : Nat) where
  cat : Category
  pos : Nat
  word : BitVec n
deriving DecidableEq, Repr

/-- `ham_cor(G, w)` (R221). -/
def hamCor {k m : Nat} (G : Vector (BitVec m) k) (w : BitVec (k + m)) : HamResult (k + m) :=
  if hamSyn G w = 0 then ⟨.clean, 0, w⟩
  else match hamPos G (hamSyn G w) with
    | none => ⟨.uncorrectable, 0, w⟩
    | some i => ⟨.corrected, i, flipBit w i⟩

/-- A `COR` command answers and records a correction (R228, R48). -/
def State.replyCor {n : Nat} (s : State) (r : HamResult n) : Host.Outcome State Fault Refusal :=
  s.reply { s.block with status := recordResult s.block.status r.cat r.pos (correctionCount r.cat) }
    (rspCor r.cat r.pos r.word)

/-- `H15.PAR d` (R225). For any parameters `p` (R7). -/
def execH15ParWith (p : Config) (d : BitVec 11) (s : State) : Host.Outcome State Fault Refusal :=
  s.reply s.block (rspVal (hamPar p.gH15 d))

/-- `H15.PAR d`, for the parameters of this hardware. -/
def execH15Par (d : BitVec 11) (s : State) : Host.Outcome State Fault Refusal :=
  execH15ParWith params d s

/-- `H15.CHK w` (R226). For any parameters `p` (R7). -/
def execH15ChkWith (p : Config) (w : BitVec 15) (s : State) : Host.Outcome State Fault Refusal :=
  s.reply s.block (rspVal (hamSyn p.gH15 w))

/-- `H15.CHK w`, for the parameters of this hardware. -/
def execH15Chk (w : BitVec 15) (s : State) : Host.Outcome State Fault Refusal :=
  execH15ChkWith params w s

/-- `H15.POS s` (R227). For any parameters `p` (R7). -/
def execH15PosWith (p : Config) (syn : BitVec 4) (s : State) : Host.Outcome State Fault Refusal :=
  s.reply s.block (rspIdx (hamPos p.gH15 syn))

/-- `H15.POS s`, for the parameters of this hardware. -/
def execH15Pos (syn : BitVec 4) (s : State) : Host.Outcome State Fault Refusal :=
  execH15PosWith params syn s

/-- `H15.COR w` (R228). For any parameters `p` (R7). -/
def execH15CorWith (p : Config) (w : BitVec 15) (s : State) : Host.Outcome State Fault Refusal :=
  s.replyCor (hamCor p.gH15 w)

/-- `H15.COR w`, for the parameters of this hardware. -/
def execH15Cor (w : BitVec 15) (s : State) : Host.Outcome State Fault Refusal :=
  execH15CorWith params w s

/-- `H13.PAR d` (R235). For any parameters `p` (R7). -/
def execH13ParWith (p : Config) (d : BitVec 9) (s : State) : Host.Outcome State Fault Refusal :=
  s.reply s.block (rspVal (hamPar p.gH13 d))

/-- `H13.PAR d`, for the parameters of this hardware. -/
def execH13Par (d : BitVec 9) (s : State) : Host.Outcome State Fault Refusal :=
  execH13ParWith params d s

/-- `H13.CHK w` (R236). For any parameters `p` (R7). -/
def execH13ChkWith (p : Config) (w : BitVec 13) (s : State) : Host.Outcome State Fault Refusal :=
  s.reply s.block (rspVal (hamSyn p.gH13 w))

/-- `H13.CHK w`, for the parameters of this hardware. -/
def execH13Chk (w : BitVec 13) (s : State) : Host.Outcome State Fault Refusal :=
  execH13ChkWith params w s

/-- `H13.POS s` (R237). For any parameters `p` (R7). -/
def execH13PosWith (p : Config) (syn : BitVec 4) (s : State) : Host.Outcome State Fault Refusal :=
  s.reply s.block (rspIdx (hamPos p.gH13 syn))

/-- `H13.POS s`, for the parameters of this hardware. -/
def execH13Pos (syn : BitVec 4) (s : State) : Host.Outcome State Fault Refusal :=
  execH13PosWith params syn s

/-- `H13.COR w` (R238). For any parameters `p` (R7). -/
def execH13CorWith (p : Config) (w : BitVec 13) (s : State) : Host.Outcome State Fault Refusal :=
  s.replyCor (hamCor p.gH13 w)

/-- `H13.COR w`, for the parameters of this hardware. -/
def execH13Cor (w : BitVec 13) (s : State) : Host.Outcome State Fault Refusal :=
  execH13CorWith params w s

/-- `H16.PAR d` (R245). For any parameters `p` (R7). -/
def execH16ParWith (p : Config) (d : BitVec 11) (s : State) : Host.Outcome State Fault Refusal :=
  s.reply s.block (rspVal (hamPar p.gH16 d))

/-- `H16.PAR d`, for the parameters of this hardware. -/
def execH16Par (d : BitVec 11) (s : State) : Host.Outcome State Fault Refusal :=
  execH16ParWith params d s

/-- `H16.CHK w` (R246). For any parameters `p` (R7). -/
def execH16ChkWith (p : Config) (w : BitVec 16) (s : State) : Host.Outcome State Fault Refusal :=
  s.reply s.block (rspVal (hamSyn p.gH16 w))

/-- `H16.CHK w`, for the parameters of this hardware. -/
def execH16Chk (w : BitVec 16) (s : State) : Host.Outcome State Fault Refusal :=
  execH16ChkWith params w s

/-- `H16.POS s` (R247). For any parameters `p` (R7). -/
def execH16PosWith (p : Config) (syn : BitVec 5) (s : State) : Host.Outcome State Fault Refusal :=
  s.reply s.block (rspIdx (hamPos p.gH16 syn))

/-- `H16.POS s`, for the parameters of this hardware. -/
def execH16Pos (syn : BitVec 5) (s : State) : Host.Outcome State Fault Refusal :=
  execH16PosWith params syn s

/-- `H16.COR w` (R248). For any parameters `p` (R7). -/
def execH16CorWith (p : Config) (w : BitVec 16) (s : State) : Host.Outcome State Fault Refusal :=
  s.replyCor (hamCor p.gH16 w)

/-- `H16.COR w`, for the parameters of this hardware. -/
def execH16Cor (w : BitVec 16) (s : State) : Host.Outcome State Fault Refusal :=
  execH16CorWith params w s

end Sys2Proof.Machine
end

