-- ==== Sys2Proof/Machine/Bptc.lean ====
section
/-! DEFINITION. The BPTC(196,96) unit (`45_bptc.md`): the permutation, and the deinterleave, repair, extract, encode and
interleave steps over the buffers `IN`, `MX`, `DAT`. -/

namespace Sys2Proof.Machine

/-- `ROM.DM[a] = (a * BPTC_MUL) mod BPTC_LEN`, `(a * 181) mod 196` here, for `a` in 0..195 (R45, R340; assumption 16). -/
def romDm (p : Config) (a : Nat) : Nat := (a * p.bptcMul) % p.bptcLen

/-- The inverse of `BPTC_MUL` modulo `BPTC_LEN`, 13 here (R341); 0 for a multiplier that has none, which R341 excludes. -/
def bptcInverse (p : Config) : Nat :=
  ((List.range p.bptcLen).find? (fun k => (p.bptcMul * k) % p.bptcLen == 1)).getD 0

/-- The inverse permutation, `DM^-1[j] = (j * 13) mod 196` here (R341). -/
def romDmInv (p : Config) (j : Nat) : Nat := (j * bptcInverse p) % p.bptcLen

/-- Deinterleave (R343): `MX[a] <- IN[DM[a]]`. -/
def deinterleave (p : Config) (buf : BitVec 196) : BitVec 196 := ofBits 196 (fun a => bitAt buf (romDm p a))

/-- Interleave (R344): `IN[j] <- MX[(j * 13) mod 196]`, that is `IN[DM[a]] <- MX[a]`. -/
def interleave (p : Config) (mx : BitVec 196) : BitVec 196 := ofBits 196 (fun j => bitAt mx (romDmInv p j))

/-- The `MX` index of matrix element `M(r, c)` (R37). -/
def mxIndex (r c : Nat) : Nat := 1 + 15 * r + c

/-- `M(r, c)` (R37). -/
def mxAt (mx : BitVec 196) (r c : Nat) : Bool := bitAt mx (mxIndex r c)

/-- Column `c` as a word of the column code: rows 0..8 data, rows 9..12 parity (R345). -/
def column (mx : BitVec 196) (c : Nat) : BitVec (9 + 4) := ofBits (9 + 4) (fun r => mxAt mx r c)

/-- Row `r` as a word of the row code: columns 0..10 data, columns 11..14 parity (R345). -/
def row (mx : BitVec 196) (r : Nat) : BitVec (11 + 4) := ofBits (11 + 4) (fun c => mxAt mx r c)

/-- The variables of the repair loop (R345). -/
structure Repair where
  mx : BitVec 196
  cnt : Nat
  pos : Nat
  fatal : Bool
deriving DecidableEq, Repr

/-- The loop's action on one check's result, with the `MX` index the check located (R345). -/
def repairWith (a : Repair) (cat : Category) (idx : Nat) : Repair :=
  match cat with
  | .clean => a
  | .corrected => { a with mx := flipBit a.mx idx, cnt := a.cnt + 1, pos := idx }
  | .uncorrectable => { a with fatal := true }

/-- The check and repair of column `c` (R345). -/
def repairColumn (p : Config) (a : Repair) (c : Nat) : Repair :=
  let h := hamCor p.gH13 (column a.mx c)
  repairWith a h.cat (mxIndex h.pos c)

/-- The check and repair of row `r` (R345). -/
def repairRow (p : Config) (a : Repair) (r : Nat) : Repair :=
  let h := hamCor p.gH15 (row a.mx r)
  repairWith a h.cat (mxIndex r h.pos)

/-- Both passes, to the end whatever a check finds (R345, R346): the 15 columns, then the 9 data rows. -/
def repairLoop (p : Config) (mx : BitVec 196) : Repair :=
  (List.range 9).foldl (repairRow p) ((List.range 15).foldl (repairColumn p) ⟨mx, 0, 0, false⟩)

/-- The status of a finished repair (R345). -/
def repairCategory (a : Repair) : Category :=
  if a.fatal then .uncorrectable else if 0 < a.cnt then .corrected else .clean

/-- The `MX` index that `DAT[k]` comes from (R347). -/
def datIndex (k : Nat) : Nat := if k < 8 then mxIndex 0 (k + 3) else mxIndex (1 + (k - 8) / 11) ((k - 8) % 11)

/-- Extract (R347). -/
def extract (mx : BitVec 196) : BitVec 96 := ofBits 96 (fun k => bitAt mx (datIndex k))

/-- The data bit that belongs at matrix element `M(r, c)`, 0 at the reserved and the parity places (R348). -/
def dataAt (dat : BitVec 96) (r c : Nat) : Bool :=
  if r = 0 then decide (3 ≤ c ∧ c ≤ 10) && bitAt dat (c - 3)
  else decide (r ≤ 8 ∧ c ≤ 10) && bitAt dat (8 + 11 * (r - 1) + c)

/-- The matrix `MX` with `MX[0] = 0` and element `M(r, c)` equal to `f r c` (R37, R348). -/
def ofMatrix (f : Nat → Nat → Bool) : BitVec 196 :=
  ofBits 196 (fun a => decide (0 < a) && f ((a - 1) / 15) ((a - 1) % 15))

/-- The data placed in an all-zero `MX` (R348). -/
def placeData (dat : BitVec 96) : BitVec 196 := ofMatrix (dataAt dat)

/-- The row parities of rows 0..8 written into columns 11..14 (R348). -/
def encodeRows (p : Config) (mx : BitVec 196) : BitVec 196 :=
  ofMatrix (fun r c =>
    if r ≤ 8 ∧ 11 ≤ c then bitAt (hamPar p.gH15 (codeData 11 4 (row mx r))) (c - 11) else mxAt mx r c)

/-- The column parities of all 15 columns written into rows 9..12 (R348). -/
def encodeColumns (p : Config) (mx : BitVec 196) : BitVec 196 :=
  ofMatrix (fun r c => if 9 ≤ r then bitAt (hamPar p.gH13 (codeData 9 4 (column mx c))) (r - 9) else mxAt mx r c)

/-- `bptc_encode(DAT)` (R348): rows first, then columns. -/
def bptcEncode (p : Config) (dat : BitVec 96) : BitVec 196 := encodeColumns p (encodeRows p (placeData dat))

/-- `BPTC.DEINT` (R350). For any parameters `p` (R7). -/
def execBptcDeintWith (p : Config) (s : State) : Host.Outcome State Fault Refusal :=
  s.reply { s.block with mx := deinterleave p s.block.inBuf } 0

/-- `BPTC.DEINT`, for the parameters of this hardware. -/
def execBptcDeint (s : State) : Host.Outcome State Fault Refusal :=
  execBptcDeintWith params s

/-- `BPTC.REPAIR` (R351). For any parameters `p` (R7). -/
def execBptcRepairWith (p : Config) (s : State) : Host.Outcome State Fault Refusal :=
  let a := repairLoop p s.block.mx
  s.reply { s.block with mx := a.mx, status := recordResult s.block.status (repairCategory a) a.pos a.cnt }
    (rspRep (repairCategory a) a.cnt a.pos)

/-- `BPTC.REPAIR`, for the parameters of this hardware. -/
def execBptcRepair (s : State) : Host.Outcome State Fault Refusal :=
  execBptcRepairWith params s

/-- `BPTC.EXTRACT` (R352). -/
def execBptcExtract (s : State) : Host.Outcome State Fault Refusal :=
  s.reply { s.block with dat := extract s.block.mx } 0

/-- `BPTC.ENC` (R353). For any parameters `p` (R7). -/
def execBptcEncWith (p : Config) (s : State) : Host.Outcome State Fault Refusal :=
  s.reply { s.block with mx := bptcEncode p s.block.dat } 0

/-- `BPTC.ENC`, for the parameters of this hardware. -/
def execBptcEnc (s : State) : Host.Outcome State Fault Refusal :=
  execBptcEncWith params s

/-- `BPTC.INT` (R354). For any parameters `p` (R7). -/
def execBptcIntWith (p : Config) (s : State) : Host.Outcome State Fault Refusal :=
  s.reply { s.block with inBuf := interleave p s.block.mx } 0

/-- `BPTC.INT`, for the parameters of this hardware. -/
def execBptcInt (s : State) : Host.Outcome State Fault Refusal :=
  execBptcIntWith params s

/-- `BPTC.DM a` (R355). For any parameters `p` (R7). -/
def execBptcDmWith (p : Config) (a : Byte) (s : State) : Host.Outcome State Fault Refusal :=
  match spaceIndex 196 a with
  | none => s.raiseIllegal .operandRange
  | some k => s.reply s.block (BitVec.ofNat 32 (romDm p k.val))

/-- `BPTC.DM a`, for the parameters of this hardware. -/
def execBptcDm (a : Byte) (s : State) : Host.Outcome State Fault Refusal :=
  execBptcDmWith params a s

end Sys2Proof.Machine
end

