-- ==== Sys2Proof/Machine/Crc.lean ====
section
/-! DEFINITION. The four CRC units (`41_crc.md`): the bit-serial engine of R170 to R172 with its three instances, and the
table-driven engine of R200, R201. No CRC command writes any `STATUS` field. -/

namespace Sys2Proof.Machine

/-- One shift of a bit-serial engine of width `W` and polynomial `P` (R170): the message bit enters at bit 0, and `P` is XORed
in when the bit that leaves is 1. -/
def crcShift {W : Nat} (P c : BitVec W) (m : Bool) : BitVec W :=
  let shifted := (c <<< 1) ||| (BitVec.ofBool m).setWidth W
  if c.msb then shifted ^^^ P else shifted

/-- Feed the low `n` bits of a byte, the highest of them first (R171). -/
def crcFeed {W : Nat} (P : BitVec W) (b : Byte) : (n : Nat) → BitVec W → BitVec W
  | 0, c => c
  | n + 1, c => crcFeed P b n (crcShift P c (b.getLsbD n))

/-- Finalize: shift in `f` zero bits (R172). -/
def crcFin {W : Nat} (P : BitVec W) : (f : Nat) → BitVec W → BitVec W
  | 0, c => c
  | f + 1, c => crcFin P f (crcShift P c false)

/-- One of the eight steps that make an entry of the table (R200). -/
def t16Step (P c : BitVec 16) : BitVec 16 := if c.getLsbD 0 then (c >>> 1) ^^^ P else c >>> 1

/-- `n` steps of R200. -/
def t16Steps (P : BitVec 16) : (n : Nat) → BitVec 16 → BitVec 16
  | 0, c => c
  | n + 1, c => t16Steps P n (t16Step P c)

/-- `ROM.T16[i]` (R42, R200). -/
def romT16 (P : BitVec 16) (i : Byte) : BitVec 16 := t16Steps P 8 (i.setWidth 16)

/-- The update of the table-driven engine by one byte (R201). -/
def t16Update (P c : BitVec 16) (b : Byte) : BitVec 16 := (c >>> 8) ^^^ romT16 P (c.setWidth 8 ^^^ b)

/-- `CRC9.CLR` (R175). -/
def execCrc9Clr (s : State) : Host.Outcome State Fault Refusal := s.reply { s.block with crc9 := 0 } 0

/-- `CRC9.FEED n, b` (R176). For any parameters `p` (R7). -/
def execCrc9FeedWith (p : Config) (n : BitVec 4) (b : Byte) (s : State) : Host.Outcome State Fault Refusal :=
  match feedCount n with
  | none => s.raiseIllegal .operandRange
  | some k => s.reply { s.block with crc9 := crcFeed p.crc9Poly b k s.block.crc9 } 0

/-- `CRC9.FEED n, b`, for the parameters of this hardware. -/
def execCrc9Feed (n : BitVec 4) (b : Byte) (s : State) : Host.Outcome State Fault Refusal :=
  execCrc9FeedWith params n b s

/-- `CRC9.FIN` (R177). For any parameters `p` (R7). -/
def execCrc9FinWith (p : Config) (s : State) : Host.Outcome State Fault Refusal :=
  s.reply { s.block with crc9 := crcFin p.crc9Poly p.crc9Fin s.block.crc9 } 0

/-- `CRC9.FIN`, for the parameters of this hardware. -/
def execCrc9Fin (s : State) : Host.Outcome State Fault Refusal :=
  execCrc9FinWith params s

/-- `CRC9.RD` (R178). -/
def execCrc9Rd (s : State) : Host.Outcome State Fault Refusal := s.reply s.block (rspVal s.block.crc9)

/-- `CRC16.CLR` (R185). -/
def execCrc16Clr (s : State) : Host.Outcome State Fault Refusal := s.reply { s.block with crc16 := 0 } 0

/-- `CRC16.FEED b` (R186). For any parameters `p` (R7). -/
def execCrc16FeedWith (p : Config) (b : Byte) (s : State) : Host.Outcome State Fault Refusal :=
  s.reply { s.block with crc16 := crcFeed p.crc16Poly b 8 s.block.crc16 } 0

/-- `CRC16.FEED b`, for the parameters of this hardware. -/
def execCrc16Feed (b : Byte) (s : State) : Host.Outcome State Fault Refusal :=
  execCrc16FeedWith params b s

/-- `CRC16.FIN` (R187). For any parameters `p` (R7). -/
def execCrc16FinWith (p : Config) (s : State) : Host.Outcome State Fault Refusal :=
  s.reply { s.block with crc16 := crcFin p.crc16Poly p.crc16Fin s.block.crc16 } 0

/-- `CRC16.FIN`, for the parameters of this hardware. -/
def execCrc16Fin (s : State) : Host.Outcome State Fault Refusal :=
  execCrc16FinWith params s

/-- `CRC16.RD` (R188). -/
def execCrc16Rd (s : State) : Host.Outcome State Fault Refusal := s.reply s.block (rspVal s.block.crc16)

/-- `CRC32.CLR` (R191). -/
def execCrc32Clr (s : State) : Host.Outcome State Fault Refusal := s.reply { s.block with crc32 := 0 } 0

/-- `CRC32.FEED b` (R192). For any parameters `p` (R7). -/
def execCrc32FeedWith (p : Config) (b : Byte) (s : State) : Host.Outcome State Fault Refusal :=
  s.reply { s.block with crc32 := crcFeed p.crc32Poly b 8 s.block.crc32 } 0

/-- `CRC32.FEED b`, for the parameters of this hardware. -/
def execCrc32Feed (b : Byte) (s : State) : Host.Outcome State Fault Refusal :=
  execCrc32FeedWith params b s

/-- `CRC32.FIN` (R194). For any parameters `p` (R7). -/
def execCrc32FinWith (p : Config) (s : State) : Host.Outcome State Fault Refusal :=
  s.reply { s.block with crc32 := crcFin p.crc32Poly p.crc32Fin s.block.crc32 } 0

/-- `CRC32.FIN`, for the parameters of this hardware. -/
def execCrc32Fin (s : State) : Host.Outcome State Fault Refusal :=
  execCrc32FinWith params s

/-- `CRC32.RD` (R195). -/
def execCrc32Rd (s : State) : Host.Outcome State Fault Refusal := s.reply s.block (rspVal s.block.crc32)

/-- `CRC16T.CLR` (R202). For any parameters `p` (R7). -/
def execCrc16tClrWith (p : Config) (s : State) : Host.Outcome State Fault Refusal :=
  s.reply { s.block with crc16t := p.crc16tInit } 0

/-- `CRC16T.CLR`, for the parameters of this hardware. -/
def execCrc16tClr (s : State) : Host.Outcome State Fault Refusal :=
  execCrc16tClrWith params s

/-- `CRC16T.FEED b` (R204). For any parameters `p` (R7). -/
def execCrc16tFeedWith (p : Config) (b : Byte) (s : State) : Host.Outcome State Fault Refusal :=
  s.reply { s.block with crc16t := t16Update p.crc16tPoly s.block.crc16t b } 0

/-- `CRC16T.FEED b`, for the parameters of this hardware. -/
def execCrc16tFeed (b : Byte) (s : State) : Host.Outcome State Fault Refusal :=
  execCrc16tFeedWith params b s

/-- `CRC16T.RD` (R205). -/
def execCrc16tRd (s : State) : Host.Outcome State Fault Refusal := s.reply s.block (rspVal s.block.crc16t)

/-- `CRC16T.SET v` (R203). -/
def execCrc16tSet (v : BitVec 16) (s : State) : Host.Outcome State Fault Refusal :=
  s.reply { s.block with crc16t := v } 0

/-- `CRC16T.TAB i` (R206). For any parameters `p` (R7). -/
def execCrc16tTabWith (p : Config) (i : Byte) (s : State) : Host.Outcome State Fault Refusal :=
  s.reply s.block (rspVal (romT16 p.crc16tPoly i))

/-- `CRC16T.TAB i`, for the parameters of this hardware. -/
def execCrc16tTab (i : Byte) (s : State) : Host.Outcome State Fault Refusal :=
  execCrc16tTabWith params i s

end Sys2Proof.Machine
end

