-- ==== Sys2Proof/Machine/GolayQr.lean ====
section
/-! DEFINITION. The Golay(20,8) checker and the quadratic-residue(16,7) encoder and checker (`43_golay_qr.md`). Both check
only: the result is clean or uncorrectable, never corrected (R262, R273). -/

namespace Sys2Proof.Machine

/-- The category of a check without correction: clean exactly for a zero syndrome (R264, R275). -/
def checkCategory {m : Nat} (syn : BitVec m) : Category := if syn = 0 then .clean else .uncorrectable

/-- A `CHK` command that reports a category answers and records it (R264, R275, R48). -/
def State.replyChk {m : Nat} (s : State) (syn : BitVec m) : Host.Outcome State Fault Refusal :=
  s.reply { s.block with status := recordResult s.block.status (checkCategory syn) 0 0 }
    (rspChk (checkCategory syn) syn)

/-- `ROM.QRT[v]` (R43, R272). -/
def romQrt (G : Vector (BitVec 9) 7) (v : BitVec 7) : BitVec 9 := hamPar G v

/-- `GOLAY.PAR d` (R263). For any parameters `p` (R7). -/
def execGolayParWith (p : Config) (d : BitVec 8) (s : State) : Host.Outcome State Fault Refusal :=
  s.reply s.block (rspVal (hamPar p.gGolay d))

/-- `GOLAY.PAR d`, for the parameters of this hardware. -/
def execGolayPar (d : BitVec 8) (s : State) : Host.Outcome State Fault Refusal :=
  execGolayParWith params d s

/-- `GOLAY.CHK w` (R264). For any parameters `p` (R7). -/
def execGolayChkWith (p : Config) (w : BitVec 20) (s : State) : Host.Outcome State Fault Refusal :=
  s.replyChk (hamSyn p.gGolay w)

/-- `GOLAY.CHK w`, for the parameters of this hardware. -/
def execGolayChk (w : BitVec 20) (s : State) : Host.Outcome State Fault Refusal :=
  execGolayChkWith params w s

/-- `QR.PAR d` (R274). For any parameters `p` (R7). -/
def execQrParWith (p : Config) (d : BitVec 7) (s : State) : Host.Outcome State Fault Refusal :=
  s.reply s.block (rspVal (romQrt p.gQr d))

/-- `QR.PAR d`, for the parameters of this hardware. -/
def execQrPar (d : BitVec 7) (s : State) : Host.Outcome State Fault Refusal :=
  execQrParWith params d s

/-- `QR.CHK w` (R275): the table entry of the data bits XOR the received parity bits. For any parameters `p` (R7). -/
def execQrChkWith (p : Config) (w : BitVec 16) (s : State) : Host.Outcome State Fault Refusal :=
  s.replyChk (romQrt p.gQr (w.extractLsb' 9 7) ^^^ w.extractLsb' 0 9)

/-- `QR.CHK w`, for the parameters of this hardware. -/
def execQrChk (w : BitVec 16) (s : State) : Host.Outcome State Fault Refusal :=
  execQrChkWith params w s

/-- `QR.ENC d` (R276): the data bits, then the table entry. For any parameters `p` (R7). -/
def execQrEncWith (p : Config) (d : BitVec 7) (s : State) : Host.Outcome State Fault Refusal :=
  s.reply s.block (rspVal (d ++ romQrt p.gQr d))

/-- `QR.ENC d`, for the parameters of this hardware. -/
def execQrEnc (d : BitVec 7) (s : State) : Host.Outcome State Fault Refusal :=
  execQrEncWith params d s

end Sys2Proof.Machine
end

