-- ==== Sys2Proof/Machine/ReedSolomon.lean ====
section
/-! DEFINITION. The Reed-Solomon(12,9) unit and the arithmetic of GF(2^8) (`44_reed_solomon.md`), over any field polynomial
(R291) and any monic generator of degree 3 (R300). The block applies no mask to the check bytes (R318). -/

namespace Sys2Proof.Machine

/-- The product of two polynomials over GF(2), up to 15 bits (the first loop of R291). -/
def gfProduct (a b : Byte) : BitVec 15 :=
  (List.range 8).foldl (fun r i => if b.getLsbD i then r ^^^ (a.setWidth 15 <<< i) else r) 0#15

/-- Reduction modulo the field polynomial, from bit 14 down to bit 8 (the second loop of R291). -/
def gfReduce (poly : BitVec 9) (r : BitVec 15) : BitVec 15 :=
  [14, 13, 12, 11, 10, 9, 8].foldl (fun r i => if r.getLsbD i then r ^^^ (poly.setWidth 15 <<< (i - 8)) else r) r

/-- `gf_mul(a, b)` (R291). -/
def gfMul (poly : BitVec 9) (a b : Byte) : Byte := (gfReduce poly (gfProduct a b)).setWidth 8

/-- `cur * α^n` with `α = 0x02`, multiplying `n` times (R292). Zero times `α` is zero, so a walk from 0 stops there; the test
also makes an evaluation settle each product before the next. -/
def gfPowFrom (poly : BitVec 9) (cur : Byte) : (n : Nat) → Byte
  | 0 => cur
  | n + 1 => if cur = 0 then 0 else gfPowFrom poly (gfMul poly cur 0x02) n

/-- `α^i` with `α = 0x02` (R292): `α^0 = 0x01` and `α^(i+1) = gf_mul(α^i, 0x02)` (`gfPow_succ` in Sys2Proof/Laws/Units.lean). -/
def gfPow (poly : BitVec 9) (i : Nat) : Byte := gfPowFrom poly 0x01 i

/-- `ROM.EXP[i]` (R44, R292): `α^i`, and 0x01 at index 255. -/
def romExp (poly : BitVec 9) (i : Nat) : Byte := if i = 255 then 0x01 else gfPow poly i

/-- The first `i` at or after a given one with `α^i = v`, walking up from `cur = α^i` for at most `fuel` places. -/
def gfLogFrom (poly : BitVec 9) (v cur : Byte) (i : Nat) : (fuel : Nat) → Nat
  | 0 => 0
  | fuel + 1 => if cur = v then i else gfLogFrom poly v (gfMul poly cur 0x02) (i + 1) fuel

/-- `ROM.LOG[v]` (R44, R292): the `i` in 0..254 with `EXP[i] = v`; the filler 0 at `v = 0`, which no rule reads
(assumption 15). -/
def romLog (poly : BitVec 9) (v : Byte) : Nat := if v = 0 then 0 else gfLogFrom poly v 0x01 0 255

/-- `gf_inv(a)`, for `a` not 0 (R293). -/
def gfInv (poly : BitVec 9) (a : Byte) : Byte := romExp poly ((255 - romLog poly a) % 255)

/-- `gf_div(b, a)`, for `a` not 0 (R293). -/
def gfDiv (poly : BitVec 9) (b a : Byte) : Byte := gfMul poly b (gfInv poly a)

/-- The three cells of the encoder's LFSR (R303). -/
structure RsCells where
  q2 : Byte
  q1 : Byte
  q0 : Byte
deriving DecidableEq, Repr

/-- One step of the LFSR with data byte `m` (R303); the three assignments use the old cells. -/
def rsLfsrStep (poly : BitVec 9) (gen : Vector Byte 4) (q : RsCells) (m : Byte) : RsCells :=
  let f := m ^^^ q.q2
  { q2 := q.q1 ^^^ gfMul poly gen[2] f
    q1 := q.q0 ^^^ gfMul poly gen[1] f
    q0 := gfMul poly gen[0] f }

/-- `rs_parity(m)` (R303): the data bytes enter in index order. -/
def rsParity (poly : BitVec 9) (gen : Vector Byte 4) (m : List Byte) : RsCells :=
  m.foldl (rsLfsrStep poly gen) ⟨0, 0, 0⟩

/-- `S_j = c(α^j)` by Horner's rule (R305); byte 0 is the coefficient of the highest degree (R302). -/
def rsSyndrome (poly : BitVec 9) (c : List Byte) (j : Nat) : Byte :=
  c.foldl (fun acc x => gfMul poly acc (romExp poly j) ^^^ x) 0

/-- What `rs_decode` returns (R306): category, byte index, magnitude, and the word after the correction. -/
structure RsResult where
  cat : Category
  pos : Nat
  magnitude : Byte
  word : Vector Byte 12
deriving DecidableEq, Repr

/-- The answer for a word beyond one symbol error (R306). -/
def rsFail (c : Vector Byte 12) : RsResult := ⟨.uncorrectable, 0, 0, c⟩

/-- The correction at the locator's degree `k`, if it points inside the 12 bytes (R306). -/
def rsCorrect (cw : Vector Byte 12) (k : Nat) (e : Byte) : RsResult :=
  if _h : k ≤ 11 then ⟨.corrected, 11 - k, e, cw.set (11 - k) (cw[11 - k] ^^^ e)⟩ else rsFail cw

/-- `rs_decode(c)` in the closed form of R306. -/
def rsDecode (poly : BitVec 9) (c : Vector Byte 12) : RsResult :=
  let s1 := rsSyndrome poly c.toList 1
  let s2 := rsSyndrome poly c.toList 2
  let s3 := rsSyndrome poly c.toList 3
  if s1 = 0 ∧ s2 = 0 ∧ s3 = 0 then ⟨.clean, 0, 0, c⟩
  else if s1 ≠ 0 ∧ s2 ≠ 0 ∧ s3 ≠ 0 ∧ gfMul poly s2 s2 = gfMul poly s1 s3 then
    rsCorrect c (romLog poly (gfDiv poly s2 s1)) (gfDiv poly (gfMul poly s1 s1) s2)
  else rsFail c

/-- The code word with its check bytes computed from its data bytes (R312). -/
def rsEncode (poly : BitVec 9) (gen : Vector Byte 4) (c : Vector Byte 12) : Vector Byte 12 :=
  let q := rsParity poly gen (c.toList.take 9)
  ((c.set 9 q.q2).set 10 q.q1).set 11 q.q0

/-- `RS.LD i, b` (R310). -/
def execRsLd (i : BitVec 4) (b : Byte) (s : State) : Host.Outcome State Fault Refusal :=
  match spaceIndex 12 i with
  | none => s.raiseIllegal .operandRange
  | some k => s.reply { s.block with rs := s.block.rs.set k.val b k.isLt } 0

/-- `RS.RD i` (R311). -/
def execRsRd (i : BitVec 4) (s : State) : Host.Outcome State Fault Refusal :=
  match spaceIndex 12 i with
  | none => s.raiseIllegal .operandRange
  | some k => s.reply s.block (rspVal s.block.rs[k])

/-- `RS.ENC` (R312). For any parameters `p` (R7). -/
def execRsEncWith (p : Config) (s : State) : Host.Outcome State Fault Refusal :=
  s.reply { s.block with rs := rsEncode p.gfPoly p.rsGen s.block.rs } 0

/-- `RS.ENC`, for the parameters of this hardware. -/
def execRsEnc (s : State) : Host.Outcome State Fault Refusal :=
  execRsEncWith params s

/-- `RS.SYN` (R313). For any parameters `p` (R7). -/
def execRsSynWith (p : Config) (s : State) : Host.Outcome State Fault Refusal :=
  s.reply s.block
    (rspVal (rsSyndrome p.gfPoly s.block.rs.toList 1 ++ rsSyndrome p.gfPoly s.block.rs.toList 2 ++
      rsSyndrome p.gfPoly s.block.rs.toList 3))

/-- `RS.SYN`, for the parameters of this hardware. -/
def execRsSyn (s : State) : Host.Outcome State Fault Refusal :=
  execRsSynWith params s

/-- `RS.DEC` (R314). For any parameters `p` (R7). -/
def execRsDecWith (p : Config) (s : State) : Host.Outcome State Fault Refusal :=
  let r := rsDecode p.gfPoly s.block.rs
  s.reply { s.block with rs := r.word, status := recordResult s.block.status r.cat r.pos (correctionCount r.cat) }
    (rspDec r.cat r.pos r.magnitude)

/-- `RS.DEC`, for the parameters of this hardware. -/
def execRsDec (s : State) : Host.Outcome State Fault Refusal :=
  execRsDecWith params s

/-- `RS.MUL a, b` (R315). For any parameters `p` (R7). -/
def execRsMulWith (p : Config) (a b : Byte) (s : State) : Host.Outcome State Fault Refusal :=
  s.reply s.block (rspVal (gfMul p.gfPoly a b))

/-- `RS.MUL a, b`, for the parameters of this hardware. -/
def execRsMul (a b : Byte) (s : State) : Host.Outcome State Fault Refusal :=
  execRsMulWith params a b s

/-- `RS.EXP i` (R316). For any parameters `p` (R7). -/
def execRsExpWith (p : Config) (i : Byte) (s : State) : Host.Outcome State Fault Refusal :=
  s.reply s.block (rspVal (romExp p.gfPoly i.toNat))

/-- `RS.EXP i`, for the parameters of this hardware. -/
def execRsExp (i : Byte) (s : State) : Host.Outcome State Fault Refusal :=
  execRsExpWith params i s

/-- `RS.LOG v` (R317): 0 has no logarithm. For any parameters `p` (R7). -/
def execRsLogWith (p : Config) (v : Byte) (s : State) : Host.Outcome State Fault Refusal :=
  s.reply s.block (rspIdx (if v = 0 then none else some (romLog p.gfPoly v)))

/-- `RS.LOG v`, for the parameters of this hardware. -/
def execRsLog (v : Byte) (s : State) : Host.Outcome State Fault Refusal :=
  execRsLogWith params v s

end Sys2Proof.Machine
end

