-- ==== Sys2Proof/Machine/Sys.lean ====
section
/-! DEFINITION. The SYS commands and the byte access commands of the bit buffers (`40_bits_sys_buffers.md` R144 to R152). -/

namespace Sys2Proof.Machine

/-- `NOP` (R144): no effect. -/
def execNop (s : State) : Host.Outcome State Fault Refusal := s.reply s.block 0

/-- `STATUS` (R145): the register as a word; reading clears nothing. -/
def execStatus (s : State) : Host.Outcome State Fault Refusal := s.reply s.block (statusWord s.block.status)

/-- `RESET` (R146): every state element of the block takes its reset value, as by the reset pin (R420). For any parameters
`p` (R7). -/
def execResetWith (p : Config) (s : State) : Host.Outcome State Fault Refusal := s.reply (Block.resetWith p) 0

/-- `RESET`, for the parameters of this hardware. -/
def execReset (s : State) : Host.Outcome State Fault Refusal :=
  execResetWith params s

/-- `IN.LDB i, b` (R147). -/
def execInLdb (i : BitVec 5) (b : Byte) (s : State) : Host.Outcome State Fault Refusal :=
  match spaceIndex 25 i with
  | none => s.raiseIllegal .operandRange
  | some k => s.reply { s.block with inBuf := memWrite s.block.inBuf k.val b } 0

/-- `IN.RDB i` (R148). -/
def execInRdb (i : BitVec 5) (s : State) : Host.Outcome State Fault Refusal :=
  match spaceIndex 25 i with
  | none => s.raiseIllegal .operandRange
  | some k => s.reply s.block (rspVal (memRead s.block.inBuf k.val))

/-- `MX.LDB i, b` (R149). -/
def execMxLdb (i : BitVec 5) (b : Byte) (s : State) : Host.Outcome State Fault Refusal :=
  match spaceIndex 25 i with
  | none => s.raiseIllegal .operandRange
  | some k => s.reply { s.block with mx := memWrite s.block.mx k.val b } 0

/-- `MX.RDB i` (R150). -/
def execMxRdb (i : BitVec 5) (s : State) : Host.Outcome State Fault Refusal :=
  match spaceIndex 25 i with
  | none => s.raiseIllegal .operandRange
  | some k => s.reply s.block (rspVal (memRead s.block.mx k.val))

/-- `DAT.LDB i, b` (R151). -/
def execDatLdb (i : BitVec 4) (b : Byte) (s : State) : Host.Outcome State Fault Refusal :=
  match spaceIndex 12 i with
  | none => s.raiseIllegal .operandRange
  | some k => s.reply { s.block with dat := memWrite s.block.dat k.val b } 0

/-- `DAT.RDB i` (R152). -/
def execDatRdb (i : BitVec 4) (s : State) : Host.Outcome State Fault Refusal :=
  match spaceIndex 12 i with
  | none => s.raiseIllegal .operandRange
  | some k => s.reply s.block (rspVal (memRead s.block.dat k.val))

end Sys2Proof.Machine
end

