-- ==== Sys2Proof/Machine/Dispatch.lean ====
section
/-! DEFINITION. The meaning of every command: one arm per constructor, each one call of its meaning. -/

namespace Sys2Proof.Machine

def exec (i : Instr) (s : State) : Host.Outcome State Fault Refusal :=
  match i with
  | .nop => Sys2Proof.Machine.execNop s
  | .status => Sys2Proof.Machine.execStatus s
  | .reset => Sys2Proof.Machine.execReset s
  | .crc9Clr => Sys2Proof.Machine.execCrc9Clr s
  | .crc9Feed n b => Sys2Proof.Machine.execCrc9Feed n b s
  | .crc9Fin => Sys2Proof.Machine.execCrc9Fin s
  | .crc9Rd => Sys2Proof.Machine.execCrc9Rd s
  | .crc16Clr => Sys2Proof.Machine.execCrc16Clr s
  | .crc16Feed b => Sys2Proof.Machine.execCrc16Feed b s
  | .crc16Fin => Sys2Proof.Machine.execCrc16Fin s
  | .crc16Rd => Sys2Proof.Machine.execCrc16Rd s
  | .crc32Clr => Sys2Proof.Machine.execCrc32Clr s
  | .crc32Feed b => Sys2Proof.Machine.execCrc32Feed b s
  | .crc32Fin => Sys2Proof.Machine.execCrc32Fin s
  | .crc32Rd => Sys2Proof.Machine.execCrc32Rd s
  | .crc16tClr => Sys2Proof.Machine.execCrc16tClr s
  | .crc16tFeed b => Sys2Proof.Machine.execCrc16tFeed b s
  | .crc16tRd => Sys2Proof.Machine.execCrc16tRd s
  | .crc16tSet v => Sys2Proof.Machine.execCrc16tSet v s
  | .crc16tTab k => Sys2Proof.Machine.execCrc16tTab k s
  | .h15Par d => Sys2Proof.Machine.execH15Par d s
  | .h15Chk w => Sys2Proof.Machine.execH15Chk w s
  | .h15Pos syn => Sys2Proof.Machine.execH15Pos syn s
  | .h15Cor w => Sys2Proof.Machine.execH15Cor w s
  | .h13Par d => Sys2Proof.Machine.execH13Par d s
  | .h13Chk w => Sys2Proof.Machine.execH13Chk w s
  | .h13Pos syn => Sys2Proof.Machine.execH13Pos syn s
  | .h13Cor w => Sys2Proof.Machine.execH13Cor w s
  | .h16Par d => Sys2Proof.Machine.execH16Par d s
  | .h16Chk w => Sys2Proof.Machine.execH16Chk w s
  | .h16Pos syn => Sys2Proof.Machine.execH16Pos syn s
  | .h16Cor w => Sys2Proof.Machine.execH16Cor w s
  | .golayPar d => Sys2Proof.Machine.execGolayPar d s
  | .golayChk w => Sys2Proof.Machine.execGolayChk w s
  | .qrPar d => Sys2Proof.Machine.execQrPar d s
  | .qrChk w => Sys2Proof.Machine.execQrChk w s
  | .qrEnc d => Sys2Proof.Machine.execQrEnc d s
  | .rsLd k b => Sys2Proof.Machine.execRsLd k b s
  | .rsRd k => Sys2Proof.Machine.execRsRd k s
  | .rsEnc => Sys2Proof.Machine.execRsEnc s
  | .rsSyn => Sys2Proof.Machine.execRsSyn s
  | .rsDec => Sys2Proof.Machine.execRsDec s
  | .rsMul a b => Sys2Proof.Machine.execRsMul a b s
  | .rsExp k => Sys2Proof.Machine.execRsExp k s
  | .rsLog v => Sys2Proof.Machine.execRsLog v s
  | .inLdb k b => Sys2Proof.Machine.execInLdb k b s
  | .inRdb k => Sys2Proof.Machine.execInRdb k s
  | .mxLdb k b => Sys2Proof.Machine.execMxLdb k b s
  | .mxRdb k => Sys2Proof.Machine.execMxRdb k s
  | .datLdb k b => Sys2Proof.Machine.execDatLdb k b s
  | .datRdb k => Sys2Proof.Machine.execDatRdb k s
  | .bptcDeint => Sys2Proof.Machine.execBptcDeint s
  | .bptcRepair => Sys2Proof.Machine.execBptcRepair s
  | .bptcExtract => Sys2Proof.Machine.execBptcExtract s
  | .bptcEnc => Sys2Proof.Machine.execBptcEnc s
  | .bptcInt => Sys2Proof.Machine.execBptcInt s
  | .bptcDm a => Sys2Proof.Machine.execBptcDm a s

end Sys2Proof.Machine
end

