-- ==== Sys2Proof/Machine/Step.lean ====
section
/-! DEFINITION. One step of the machine: take what the host presents, decode an accepted command and execute it
(`00_scope.md` R11, `20_memory.md` R80). -/

namespace Sys2Proof.Machine

/-- One step. A step that accepts no command only resets or waits; an accepted word that is no command raises
`IllegalCommand` (R383, R385). -/
def step (s : State) : Host.Outcome State Fault Refusal :=
  match s.accept with
  | (none, t) => .next t
  | (some w, t) =>
    match decode w with
    | .error c => t.raiseIllegal c
    | .ok i => exec i t

/-- The state in which the next step takes the command word whose low `nbits` bits are `w`'s (assumption 3). -/
def State.withFetchWord (s : State) (nbits w : Nat) : State := s.present (tableWord nbits w)

end Sys2Proof.Machine
end

