-- ==== Sys2Proof/Safety.lean ====
section
/-! DEFINITION. The terms in which claims are stated: what a sound `STATUS` is, the outcome of an illegal command, runs of
commands, the tables of R30 and R106 as the spec prints them, and bit vectors as polynomials over GF(2). -/

namespace Sys2Proof.Machine

/-- A run in which no command was rejected ends with `FAULT = 0` (R385: "a claim about a sequence's result should carry" it). -/
abbrev noFault (s : State) : Prop := s.block.status.fault = false

/-- The values `STATUS` can hold (R12, R40, R41, R48, R381): category 3 and cause codes 4 to 7 are never produced, `FAULT` and a
non-zero `ECODE` come together, `CNT` is at most 24 and `POS` at most 195, a clean result has neither, a corrected one changed
something, and a position is reported only with a change. -/
abbrev statusSound (r : Status) : Prop :=
  r.st ≠ 3 ∧ r.ecode.toNat ≤ 3 ∧ (r.fault = true ↔ r.ecode ≠ 0) ∧ r.cnt.toNat ≤ 24 ∧ r.pos.toNat ≤ 195 ∧
    (r.st = 0 → r.cnt = 0) ∧ (r.st = 1 → r.cnt ≠ 0) ∧ (r.cnt = 0 → r.pos = 0)

/-- What R383 gives an illegal command with this cause code: only the fault record and the response. -/
def illegalNext (s : State) (code : BitVec 3) : Host.Outcome State Fault Refusal :=
  .next { s with
    block := { s.block with
      status := { s.block.status with
        ecode := if s.block.status.fault = true then s.block.status.ecode else code
        fault := true } }
    out := some { rsp := 0, err := true } }

/-- What a legal command without a result leaves: the block's new state and `rsp = 0`, `err = 0` (layout `NONE`, R120). -/
def doneNext (s : State) (b : Block) : Host.Outcome State Fault Refusal :=
  .next { s with block := b, out := some { rsp := 0, err := false } }

/-- What a legal command that changes no state leaves: its response (R120). -/
def answerNext (s : State) (rsp : Word) : Host.Outcome State Fault Refusal :=
  .next { s with out := some { rsp := rsp, err := false } }

/-- The result fields as R48 has them, the fault record kept. -/
def withResult (r : Status) (st : BitVec 2) (pos cnt : Nat) : Status :=
  { r with st := st, pos := BitVec.ofNat 8 pos, cnt := BitVec.ofNat 8 cnt }

/-- A list of commands executed one after another, from left to right (R47). -/
def execAll : List Instr → State → Host.Outcome State Fault Refusal
  | [], s => .next s
  | i :: is, s =>
    match exec i s with
    | .next t => execAll is t
    | .fault r => .fault r
    | .refused r => .refused r

/-- The nine state elements of R30. -/
inductive Element where
  | crc9 | crc16 | crc32 | crc16t | inBuf | mx | dat | rs | status
deriving DecidableEq, Repr

/-- The column "written by" of R30; for `STATUS`, the seven commands of R48 and `RESET` (an illegal command also writes its
fault record, R41). -/
def writes : Element → Instr → Bool
  | _, .reset => true
  | .crc9, .crc9Clr => true
  | .crc9, .crc9Feed _ _ => true
  | .crc9, .crc9Fin => true
  | .crc16, .crc16Clr => true
  | .crc16, .crc16Feed _ => true
  | .crc16, .crc16Fin => true
  | .crc32, .crc32Clr => true
  | .crc32, .crc32Feed _ => true
  | .crc32, .crc32Fin => true
  | .crc16t, .crc16tClr => true
  | .crc16t, .crc16tSet _ => true
  | .crc16t, .crc16tFeed _ => true
  | .inBuf, .inLdb _ _ => true
  | .inBuf, .bptcInt => true
  | .mx, .mxLdb _ _ => true
  | .mx, .bptcDeint => true
  | .mx, .bptcRepair => true
  | .mx, .bptcEnc => true
  | .dat, .datLdb _ _ => true
  | .dat, .bptcExtract => true
  | .rs, .rsLd _ _ => true
  | .rs, .rsEnc => true
  | .rs, .rsDec => true
  | .status, .h15Cor _ => true
  | .status, .h13Cor _ => true
  | .status, .h16Cor _ => true
  | .status, .golayChk _ => true
  | .status, .qrChk _ => true
  | .status, .rsDec => true
  | .status, .bptcRepair => true
  | _, _ => false

/-- The column "read by" of R30. -/
def reads : Element → Instr → Bool
  | .crc9, .crc9Feed _ _ => true
  | .crc9, .crc9Fin => true
  | .crc9, .crc9Rd => true
  | .crc16, .crc16Feed _ => true
  | .crc16, .crc16Fin => true
  | .crc16, .crc16Rd => true
  | .crc32, .crc32Feed _ => true
  | .crc32, .crc32Fin => true
  | .crc32, .crc32Rd => true
  | .crc16t, .crc16tFeed _ => true
  | .crc16t, .crc16tRd => true
  | .inBuf, .inRdb _ => true
  | .inBuf, .bptcDeint => true
  | .mx, .mxRdb _ => true
  | .mx, .bptcRepair => true
  | .mx, .bptcExtract => true
  | .mx, .bptcInt => true
  | .dat, .datRdb _ => true
  | .dat, .bptcEnc => true
  | .rs, .rsRd _ => true
  | .rs, .rsEnc => true
  | .rs, .rsSyn => true
  | .rs, .rsDec => true
  | .status, .status => true
  | _, _ => false

/-- Two blocks hold the same value in element `e`. -/
def sameElement : Element → Block → Block → Prop
  | .crc9, a, b => a.crc9 = b.crc9
  | .crc16, a, b => a.crc16 = b.crc16
  | .crc32, a, b => a.crc32 = b.crc32
  | .crc16t, a, b => a.crc16t = b.crc16t
  | .inBuf, a, b => a.inBuf = b.inBuf
  | .mx, a, b => a.mx = b.mx
  | .dat, a, b => a.dat = b.dat
  | .rs, a, b => a.rs = b.rs
  | .status, a, b => a.status = b.status

/-- Two blocks hold the same values in every element but, perhaps, `e`. -/
def sameExcept (e : Element) (a b : Block) : Prop := ∀ e', e' ≠ e → sameElement e' a b

/-- `match` and `mask` of the 57 rows of the opcode map, as R106 prints them. -/
def printedRows : List (Word × Word) := [
  (0x00000000, 0xFFFFFFFF), (0x01000000, 0xFFFFFFFF), (0x02000000, 0xFFFFFFFF), (0x10000000, 0xFFFFFFFF),
  (0x11000000, 0xFFFFF000), (0x12000000, 0xFFFFFFFF), (0x13000000, 0xFFFFFFFF), (0x20000000, 0xFFFFFFFF),
  (0x21000000, 0xFFFFFF00), (0x22000000, 0xFFFFFFFF), (0x23000000, 0xFFFFFFFF), (0x30000000, 0xFFFFFFFF),
  (0x31000000, 0xFFFFFF00), (0x32000000, 0xFFFFFFFF), (0x33000000, 0xFFFFFFFF), (0x40000000, 0xFFFFFFFF),
  (0x41000000, 0xFFFFFF00), (0x43000000, 0xFFFFFFFF), (0x44000000, 0xFFFF0000), (0x45000000, 0xFFFFFF00),
  (0x50000000, 0xFFFFF800), (0x51000000, 0xFFFF8000), (0x52000000, 0xFFFFFFF0), (0x53000000, 0xFFFF8000),
  (0x60000000, 0xFFFFFE00), (0x61000000, 0xFFFFE000), (0x62000000, 0xFFFFFFF0), (0x63000000, 0xFFFFE000),
  (0x70000000, 0xFFFFF800), (0x71000000, 0xFFFF0000), (0x72000000, 0xFFFFFFE0), (0x73000000, 0xFFFF0000),
  (0x80000000, 0xFFFFFF00), (0x81000000, 0xFFF00000), (0x90000000, 0xFFFFFF80), (0x91000000, 0xFFFF0000),
  (0x92000000, 0xFFFFFF80), (0xA0000000, 0xFFFFF000), (0xA1000000, 0xFFFFF0FF), (0xA2000000, 0xFFFFFFFF),
  (0xA3000000, 0xFFFFFFFF), (0xA4000000, 0xFFFFFFFF), (0xA5000000, 0xFFFF0000), (0xA6000000, 0xFFFFFF00),
  (0xA7000000, 0xFFFFFF00), (0xB0000000, 0xFFFFE000), (0xB1000000, 0xFFFFE0FF), (0xB2000000, 0xFFFFE000),
  (0xB3000000, 0xFFFFE0FF), (0xB4000000, 0xFFFFF000), (0xB5000000, 0xFFFFF0FF), (0xB6000000, 0xFFFFFFFF),
  (0xB7000000, 0xFFFFFFFF), (0xB8000000, 0xFFFFFFFF), (0xB9000000, 0xFFFFFFFF), (0xBA000000, 0xFFFFFFFF),
  (0xBB000000, 0xFFFFFF00)]

/-- The word of every command as R106 prints it: `match` of its row, and each operand in the place that the row's format gives
it (R102: `W(k)` in the low bits, `X(k)` from bit 8, `XB(k)` the first from bit 8 and the second in the low bits). -/
def printedWord : Instr → Nat
  | .nop => 0x00000000
  | .status => 0x01000000
  | .reset => 0x02000000
  | .crc9Clr => 0x10000000
  | .crc9Feed n b => 0x11000000 + n.toNat * 2 ^ 8 + b.toNat
  | .crc9Fin => 0x12000000
  | .crc9Rd => 0x13000000
  | .crc16Clr => 0x20000000
  | .crc16Feed b => 0x21000000 + b.toNat
  | .crc16Fin => 0x22000000
  | .crc16Rd => 0x23000000
  | .crc32Clr => 0x30000000
  | .crc32Feed b => 0x31000000 + b.toNat
  | .crc32Fin => 0x32000000
  | .crc32Rd => 0x33000000
  | .crc16tClr => 0x40000000
  | .crc16tFeed b => 0x41000000 + b.toNat
  | .crc16tRd => 0x43000000
  | .crc16tSet v => 0x44000000 + v.toNat
  | .crc16tTab i => 0x45000000 + i.toNat
  | .h15Par d => 0x50000000 + d.toNat
  | .h15Chk w => 0x51000000 + w.toNat
  | .h15Pos s => 0x52000000 + s.toNat
  | .h15Cor w => 0x53000000 + w.toNat
  | .h13Par d => 0x60000000 + d.toNat
  | .h13Chk w => 0x61000000 + w.toNat
  | .h13Pos s => 0x62000000 + s.toNat
  | .h13Cor w => 0x63000000 + w.toNat
  | .h16Par d => 0x70000000 + d.toNat
  | .h16Chk w => 0x71000000 + w.toNat
  | .h16Pos s => 0x72000000 + s.toNat
  | .h16Cor w => 0x73000000 + w.toNat
  | .golayPar d => 0x80000000 + d.toNat
  | .golayChk w => 0x81000000 + w.toNat
  | .qrPar d => 0x90000000 + d.toNat
  | .qrChk w => 0x91000000 + w.toNat
  | .qrEnc d => 0x92000000 + d.toNat
  | .rsLd i b => 0xA0000000 + i.toNat * 2 ^ 8 + b.toNat
  | .rsRd i => 0xA1000000 + i.toNat * 2 ^ 8
  | .rsEnc => 0xA2000000
  | .rsSyn => 0xA3000000
  | .rsDec => 0xA4000000
  | .rsMul a b => 0xA5000000 + a.toNat * 2 ^ 8 + b.toNat
  | .rsExp i => 0xA6000000 + i.toNat
  | .rsLog v => 0xA7000000 + v.toNat
  | .inLdb i b => 0xB0000000 + i.toNat * 2 ^ 8 + b.toNat
  | .inRdb i => 0xB1000000 + i.toNat * 2 ^ 8
  | .mxLdb i b => 0xB2000000 + i.toNat * 2 ^ 8 + b.toNat
  | .mxRdb i => 0xB3000000 + i.toNat * 2 ^ 8
  | .datLdb i b => 0xB4000000 + i.toNat * 2 ^ 8 + b.toNat
  | .datRdb i => 0xB5000000 + i.toNat * 2 ^ 8
  | .bptcDeint => 0xB6000000
  | .bptcRepair => 0xB7000000
  | .bptcExtract => 0xB8000000
  | .bptcEnc => 0xB9000000
  | .bptcInt => 0xBA000000
  | .bptcDm a => 0xBB000000 + a.toNat

/-- A word with the opcode byte of some row. -/
def hasOpcode (w : Word) : Prop := ∃ r ∈ printedRows, w.extractLsb' 24 8 = r.1.extractLsb' 24 8

/-- A word that some row selects, `cmd & mask == match` (R104, R106). -/
def selectsRow (w : Word) : Prop := ∃ r ∈ printedRows, w &&& r.2 = r.1

/-- The range checks of R107 (c), on the fields of a word. -/
def outOfRange (w : Word) : Prop :=
  let op := (w.extractLsb' 24 8).toNat
  (op = 0x11 ∧ ((w.extractLsb' 8 4).toNat = 0 ∨ 9 ≤ (w.extractLsb' 8 4).toNat)) ∨
  ((op = 0xA0 ∨ op = 0xA1 ∨ op = 0xB4 ∨ op = 0xB5) ∧ 12 ≤ (w.extractLsb' 8 4).toNat) ∨
  ((op = 0xB0 ∨ op = 0xB1 ∨ op = 0xB2 ∨ op = 0xB3) ∧ 25 ≤ (w.extractLsb' 8 5).toNat) ∨
  (op = 0xBB ∧ 196 ≤ (w.extractLsb' 0 8).toNat)

/-- The opcode bytes that R107 lists as illegal. -/
def listedIllegalOpcode (op : Nat) : Prop :=
  (0x03 ≤ op ∧ op ≤ 0x0F) ∨ (0x14 ≤ op ∧ op ≤ 0x1F) ∨ (0x24 ≤ op ∧ op ≤ 0x2F) ∨ (0x34 ≤ op ∧ op ≤ 0x3F) ∨ op = 0x42 ∨
  (0x46 ≤ op ∧ op ≤ 0x4F) ∨ (0x54 ≤ op ∧ op ≤ 0x5F) ∨ (0x64 ≤ op ∧ op ≤ 0x6F) ∨ (0x74 ≤ op ∧ op ≤ 0x7F) ∨
  (0x82 ≤ op ∧ op ≤ 0x8F) ∨ (0x93 ≤ op ∧ op ≤ 0x9F) ∨ (0xA8 ≤ op ∧ op ≤ 0xAF) ∨ (0xBC ≤ op ∧ op ≤ 0xFF)

open Polynomial in
/-- The low `len` bits of a value as a polynomial over GF(2): bit `k` is the coefficient of `x^k` (R173). -/
noncomputable def bitPoly {n : Nat} (v : BitVec n) (len : Nat) : (ZMod 2)[X] :=
  ∑ k ∈ Finset.range len, if v.getLsbD k then X ^ k else 0

open Polynomial in
/-- The message polynomial of a list of feeds, each of the low `n` bits of a byte, the first bit fed of the highest degree
(R173). -/
noncomputable def messagePoly : List (BitVec 4 × Byte) → (ZMod 2)[X]
  | [] => 0
  | (n, b) :: rest => bitPoly b n.toNat * X ^ ((rest.map (fun p => p.1.toNat)).sum) + messagePoly rest

/-- The number of 1 bits of a bit string. -/
def weight {n : Nat} (v : BitVec n) : Nat := (List.range n).countP (bitAt v)

end Sys2Proof.Machine
end

