-- ==== Sys2Proof/Certificates/Slice0/Obligations.lean ====
section
/-! DEFINITION. The statements for the provers. Each docstring names the rules of spec/ it formalises; where a clause is the
model's own choice it names the entry of the assumption log. `doneNext`, `answerNext` and `illegalNext` (Sys2Proof/Safety.lean)
write a whole next state, so each equation is the result, the frame and the completion of its command at once. -/

open Sys2Proof Sys2Proof.Machine Polynomial

/-! ### Decoding (`30_encoding.md`) -/

/-- R101, R102, R106, R123: decoding the word of any command gives the command back with every operand bit, and the whole
procedure of R123 accepts it exactly where its operands are in range. -/
def Obligations.EncodedCommandDecodesToItself : Prop :=
  ∀ i : Instr, decode (encode i) = .ok i ∧ (i.wellFormed = true → classify (encode i) = .ok i) ∧
    (i.wellFormed = false → classify (encode i) = .error .operandRange)

/-- R104, R106, R108: a word that decodes to a command is that command's word, so every command has exactly one word. -/
def Obligations.DecodedWordIsTheCommandsWord : Prop :=
  ∀ (w : Word) (i : Instr), decode w = .ok i → encode i = w

/-- R107: which words are illegal, with which cause, checked in the order of the rule; the tables are those R106 and R107
print (`printedRows`, `listedIllegalOpcode`, `outOfRange`). -/
def Obligations.IllegalWordsAreThoseTheRuleLists : Prop :=
  ∀ w : Word,
    (classify w = .error .unknownOpcode ↔ ¬ hasOpcode w) ∧
    (classify w = .error .reservedBits ↔ hasOpcode w ∧ ¬ selectsRow w) ∧
    (classify w = .error .operandRange ↔ selectsRow w ∧ outOfRange w) ∧
    (¬ hasOpcode w ↔ listedIllegalOpcode (w.extractLsb' 24 8).toNat)

/-- R106, R102: every command, with any operands, has the word that its row prints (`printedWord`), and that word decodes to it;
and words written out in `95_test_vectors.md` (V1 to V6 and program P5) decode to the commands they stand for. -/
def Obligations.PrintedWordsDecode : Prop :=
  (∀ i : Instr, (encode i).toNat = printedWord i ∧ decode (BitVec.ofNat 32 (printedWord i)) = .ok i) ∧
  decode 0x01000000 = .ok .status ∧ decode 0x11000868 = .ok (.crc9Feed 8 0x68) ∧
  decode 0x4400FFFF = .ok (.crc16tSet 0xFFFF) ∧ decode 0x53005A5C = .ok (.h15Cor 0x5A5C) ∧
  decode 0x810932B2 = .ok (.golayChk 0x932B2) ∧ decode 0x92000013 = .ok (.qrEnc 0x13) ∧
  decode 0xA5000E38 = .ok (.rsMul 0x0E 0x38) ∧ decode 0xB3001800 = .ok (.mxRdb 24) ∧
  decode 0xB4000B7E = .ok (.datLdb 11 0x7E) ∧ decode 0xBB0000C3 = .ok (.bptcDm 195)

/-! ### The step, the exception, reset (`60_exceptions.md`, `70_reset_and_hazards.md`) -/

/-- R11, R80: a step on which a command is presented, and reset is not, takes the word from the port and executes the command
it decodes to. -/
def Obligations.StepRunsTheDecodedCommand : Prop :=
  ∀ (s : State) (w : Word) (rest : List PortInput) (i : Instr),
    s.inputs = { rst := false, cmd := some w } :: rest → decode w = .ok i →
      step s = exec i { s with inputs := rest }

/-- R383: an illegal word answers `rsp = 0`, `err = 1`, writes the fault record and changes nothing else. -/
def Obligations.IllegalWordWritesOnlyTheFaultRecord : Prop :=
  ∀ (s : State) (w : Word) (rest : List PortInput) (c : IllegalCode),
    s.inputs = { rst := false, cmd := some w } :: rest → classify w = .error c →
      step s = illegalNext { s with inputs := rest }
        (match c with | .unknownOpcode => 1 | .reservedBits => 2 | .operandRange => 3)

/-- R76, R107 (c), R383: each of the ten commands with a range check is illegal with cause 3 on an operand outside its range. -/
def Obligations.OutOfRangeOperandIsIllegal : Prop :=
  ∀ (i : Instr) (s : State), i.wellFormed = false → exec i s = illegalNext s 3

/-- R385: the block is never stuck, and every command but the read of `STATUS` does the same whatever the fault record holds. -/
def Obligations.BlockGoesOnWhateverTheFaultRecord : Prop :=
  (∀ s : State, ∃ t, step s = .next t) ∧
  ∀ (i : Instr) (s : State) (e : BitVec 3) (f : Bool), i ≠ .status →
    ∃ t t', exec i s = .next t ∧
      exec i { s with block := { s.block with status := { s.block.status with ecode := e, fault := f } } } = .next t' ∧
      t'.out = t.out ∧ t'.inputs = t.inputs ∧ sameExcept .status t'.block t.block ∧
      t'.block.status.st = t.block.status.st ∧ t'.block.status.pos = t.block.status.pos ∧
      t'.block.status.cnt = t.block.status.cnt

/-- R80, R120, R421: a step consumes one presentation; it answers exactly when it accepted a command, and `err` is 1 exactly
for an illegal one, with `rsp = 0`. That the port's presentations and its last answer are fields of the state is the model's
choice (assumptions 1 and 2). -/
def Obligations.OneResponsePerAcceptedCommand : Prop :=
  ∀ s t : State, step s = .next t →
    t.inputs = s.inputs.tail ∧
    (∀ w rest, s.inputs = { rst := false, cmd := some w } :: rest →
      ∃ r, t.out = some r ∧ (r.err = true ↔ ∃ c, classify w = .error c) ∧ (r.err = true → r.rsp = 0)) ∧
    ((∀ w rest, s.inputs ≠ { rst := false, cmd := some w } :: rest) → t.out = none)

/-- R41: `FAULT` and `ECODE` are sticky: an illegal word sets them, keeping the first cause; no legal command but `RESET`
changes them; `RESET` and the reset pin clear them. -/
def Obligations.FaultRecordIsSticky : Prop :=
  (∀ (s t : State) (w : Word) (rest : List PortInput) (c : IllegalCode),
    s.inputs = { rst := false, cmd := some w } :: rest → classify w = .error c → step s = .next t →
      t.block.status.fault = true ∧
      (s.block.status.fault = true → t.block.status.ecode = s.block.status.ecode) ∧
      (s.block.status.fault = false →
        t.block.status.ecode = (match c with | .unknownOpcode => 1 | .reservedBits => 2 | .operandRange => 3))) ∧
  (∀ (i : Instr) (s t : State), i.wellFormed = true → i ≠ .reset → exec i s = .next t →
      t.block.status.fault = s.block.status.fault ∧ t.block.status.ecode = s.block.status.ecode) ∧
  (∀ s t : State, exec .reset s = .next t → t.block.status.fault = false ∧ t.block.status.ecode = 0) ∧
  (∀ (s t : State) (c : Option Word) (rest : List PortInput),
    s.inputs = { rst := true, cmd := c } :: rest → step s = .next t →
      t.block.status.fault = false ∧ t.block.status.ecode = 0)

/-- R391: reset wins over a command presented with it, which has no effect and no response. -/
def Obligations.ResetPinWinsOverACommand : Prop :=
  ∀ (s : State) (c : Option Word) (rest : List PortInput),
    s.inputs = { rst := true, cmd := c } :: rest →
      step s = .next { block := State.reset.block, inputs := rest, out := none }

/-- R421, R428, and the model's choice of assumption 4: a step on which the host presents no command changes no state of the
block and gives no response. -/
def Obligations.WaitingStepKeepsTheBlock : Prop :=
  ∀ s : State, (s.inputs = [] ∨ ∃ rest, s.inputs = { rst := false, cmd := none } :: rest) →
    step s = .next { block := s.block, inputs := s.inputs.tail, out := none }

/-- R50: every piece of state has the value the table of reset values gives it. -/
def Obligations.ResetLeavesTheListedValues : Prop :=
  State.reset.block = {
    crc9 := 0x000, crc16 := 0x0000, crc32 := 0x00000000, crc16t := 0x0000, inBuf := 0, mx := 0, dat := 0,
    rs := #v[0, 0, 0, 0, 0, 0, 0, 0, 0, 0, 0, 0],
    status := { st := 0, cnt := 0, pos := 0, ecode := 0, fault := false } }

/-- R12, R40, R41, R48, R381: the values `STATUS` can hold are kept by every step, from every state. -/
def Obligations.EveryStepKeepsStatusSound : Prop :=
  ∀ s t : State, statusSound s.block.status → step s = .next t → statusSound t.block.status

/-- R50, R40: `STATUS` is sound after reset. -/
def Obligations.StatusIsSoundAfterReset : Prop := statusSound State.reset.block.status

/-! ### The whole machine (`10_state.md` R30) -/

/-- R30, R48: a command changes only the elements whose "written by" column lists it; the result fields of `STATUS` are
changed only by the seven commands of R48 and `RESET`; the port is left to the host. -/
def Obligations.OnlyListedCommandsWriteAnElement : Prop :=
  ∀ (e : Element) (i : Instr) (s t : State), writes e i = false → exec i s = .next t →
    t.inputs = s.inputs ∧ (e ≠ .status → sameElement e t.block s.block) ∧
    (e = .status → t.block.status.st = s.block.status.st ∧ t.block.status.pos = s.block.status.pos ∧
      t.block.status.cnt = s.block.status.cnt)

/-- R30, R49: an element that a command's "read by" column does not list has no influence on its response or on any other
element. -/
def Obligations.UnreadElementHasNoInfluence : Prop :=
  ∀ (e : Element) (i : Instr) (s s' : State), reads e i = false → sameExcept e s.block s'.block →
    ∃ t t', exec i s = .next t ∧ exec i s' = .next t' ∧ t.out = t'.out ∧ sameExcept e t.block t'.block

/-! ### SYS commands and buffers (`40_bits_sys_buffers.md`) -/

/-- R144: `NOP`, the word 0x00000000, changes no state and answers 0. -/
def Obligations.NopChangesNothing : Prop := encode .nop = 0x00000000 ∧ ∀ s : State, exec .nop s = answerNext s 0

/-- R145, with the layout of R40: `STATUS`, the word 0x01000000, answers the five fields in their places and 0 in the reserved bits, and changes
nothing. -/
def Obligations.StatusAnswersItsFieldsInPlace : Prop :=
  encode .status = 0x01000000 ∧ ∀ s : State, ∃ r : Word, exec .status s = answerNext s r ∧
    r.extractLsb' 30 2 = s.block.status.st ∧ r.extractLsb' 24 6 = 0 ∧ r.extractLsb' 16 8 = s.block.status.cnt ∧
    r.extractLsb' 8 8 = s.block.status.pos ∧ r.extractLsb' 4 4 = 0 ∧ r.extractLsb' 1 3 = s.block.status.ecode ∧
    r.getLsbD 0 = s.block.status.fault

/-- R146: `RESET`, the word 0x02000000, puts every element of the block at its reset value and answers 0. -/
def Obligations.ResetCommandRestoresResetValues : Prop :=
  encode .reset = 0x02000000 ∧ ∀ s : State, exec .reset s = doneNext s State.reset.block

/-- R147, R149, R151: a byte load, encoded as the rules have it, writes the eight bits of its byte, MSB first, keeps every other bit of the buffer and all
other state, and is illegal beyond the buffer's last byte. -/
def Obligations.ByteLoadsWriteTheirEightBits : Prop :=
  ∀ (s : State) (b : Byte),
    (∀ i : BitVec 5, (encode (.inLdb i b)).toNat = 0xB0000000 + i.toNat * 2 ^ 8 + b.toNat ∧
      (encode (.mxLdb i b)).toNat = 0xB2000000 + i.toNat * 2 ^ 8 + b.toNat) ∧
    (∀ i : BitVec 4, (encode (.datLdb i b)).toNat = 0xB4000000 + i.toNat * 2 ^ 8 + b.toNat) ∧
    (∀ i : BitVec 5, i.toNat ≤ 24 → ∃ v, exec (.inLdb i b) s = doneNext s { s.block with inBuf := v } ∧
      ∀ j < 196, v.getMsbD j = if 8 * i.toNat ≤ j ∧ j ≤ 8 * i.toNat + 7 then b.getLsbD (7 - (j - 8 * i.toNat))
        else s.block.inBuf.getMsbD j) ∧
    (∀ i : BitVec 5, i.toNat ≤ 24 → ∃ v, exec (.mxLdb i b) s = doneNext s { s.block with mx := v } ∧
      ∀ j < 196, v.getMsbD j = if 8 * i.toNat ≤ j ∧ j ≤ 8 * i.toNat + 7 then b.getLsbD (7 - (j - 8 * i.toNat))
        else s.block.mx.getMsbD j) ∧
    (∀ i : BitVec 4, i.toNat ≤ 11 → ∃ v, exec (.datLdb i b) s = doneNext s { s.block with dat := v } ∧
      ∀ j < 96, v.getMsbD j = if 8 * i.toNat ≤ j ∧ j ≤ 8 * i.toNat + 7 then b.getLsbD (7 - (j - 8 * i.toNat))
        else s.block.dat.getMsbD j) ∧
    (∀ i : BitVec 5, 24 < i.toNat → exec (.inLdb i b) s = illegalNext s 3 ∧ exec (.mxLdb i b) s = illegalNext s 3) ∧
    (∀ i : BitVec 4, 11 < i.toNat → exec (.datLdb i b) s = illegalNext s 3)

/-- R148, R150, R152: a byte read, encoded as the rules have it, answers the eight bits of the buffer at its index, those beyond the buffer's end as 0, and
changes nothing; it is illegal beyond the buffer's last byte. -/
def Obligations.ByteReadsAnswerTheirEightBits : Prop :=
  ∀ s : State,
    (∀ i : BitVec 5, (encode (.inRdb i)).toNat = 0xB1000000 + i.toNat * 2 ^ 8 ∧
      (encode (.mxRdb i)).toNat = 0xB3000000 + i.toNat * 2 ^ 8) ∧
    (∀ i : BitVec 4, (encode (.datRdb i)).toNat = 0xB5000000 + i.toNat * 2 ^ 8) ∧
    (∀ i : BitVec 5, i.toNat ≤ 24 → ∃ y : Byte, exec (.inRdb i) s = answerNext s (y.setWidth 32) ∧
      ∀ k < 8, y.getLsbD (7 - k) = (decide (8 * i.toNat + k < 196) && s.block.inBuf.getMsbD (8 * i.toNat + k))) ∧
    (∀ i : BitVec 5, i.toNat ≤ 24 → ∃ y : Byte, exec (.mxRdb i) s = answerNext s (y.setWidth 32) ∧
      ∀ k < 8, y.getLsbD (7 - k) = (decide (8 * i.toNat + k < 196) && s.block.mx.getMsbD (8 * i.toNat + k))) ∧
    (∀ i : BitVec 4, i.toNat ≤ 11 → ∃ y : Byte, exec (.datRdb i) s = answerNext s (y.setWidth 32) ∧
      ∀ k < 8, y.getLsbD (7 - k) = s.block.dat.getMsbD (8 * i.toNat + k)) ∧
    (∀ i : BitVec 5, 24 < i.toNat → exec (.inRdb i) s = illegalNext s 3 ∧ exec (.mxRdb i) s = illegalNext s 3) ∧
    (∀ i : BitVec 4, 11 < i.toNat → exec (.datRdb i) s = illegalNext s 3)

/-- R153: a load followed by a read of the same index gives the byte back, its low nibble cleared at index 24 of `IN` and
`MX`. -/
def Obligations.LoadThenReadGivesTheByte : Prop :=
  ∀ (s : State) (b : Byte),
    (∀ i : BitVec 5, i.toNat ≤ 24 →
      (∃ t, exec (.inLdb i b) s = .next t ∧
        exec (.inRdb i) t = answerNext t ((if i = 24 then b &&& 0xF0 else b).setWidth 32)) ∧
      (∃ t, exec (.mxLdb i b) s = .next t ∧
        exec (.mxRdb i) t = answerNext t ((if i = 24 then b &&& 0xF0 else b).setWidth 32))) ∧
    (∀ i : BitVec 4, i.toNat ≤ 11 →
      (∃ t, exec (.datLdb i b) s = .next t ∧ exec (.datRdb i) t = answerNext t (b.setWidth 32)) ∧
      (∃ t, exec (.rsLd i b) s = .next t ∧ exec (.rsRd i) t = answerNext t (b.setWidth 32)))

/-- R140, R141, R142: bytes to bits and back is the identity; bits to bytes and back appends the zero padding. -/
def Obligations.BitsAndBytesRoundTrip : Prop :=
  (∀ y : List Byte, bytesFromBits (bitsFromBytes y) = y) ∧
  (∀ b : List Bool, bitsFromBytes (bytesFromBits b) = b ++ List.replicate ((8 - b.length % 8) % 8) false)

/-! ### CRC units (`41_crc.md`) -/

/-- R175, R185, R191, R202: each `CLR`, with its word, sets its register to 0 and answers 0. -/
def Obligations.CrcRegistersClear : Prop :=
  [encode .crc9Clr, encode .crc16Clr, encode .crc32Clr, encode .crc16tClr] =
    [0x10000000, 0x20000000, 0x30000000, 0x40000000] ∧
  ∀ s : State,
    exec .crc9Clr s = doneNext s { s.block with crc9 := 0 } ∧
    exec .crc16Clr s = doneNext s { s.block with crc16 := 0 } ∧
    exec .crc32Clr s = doneNext s { s.block with crc32 := 0 } ∧
    exec .crc16tClr s = doneNext s { s.block with crc16t := 0 }

/-- R178, R188, R195, R205: each `RD`, with its word, answers its register as a number and changes nothing. -/
def Obligations.CrcRegistersReadAsNumbers : Prop :=
  [encode .crc9Rd, encode .crc16Rd, encode .crc32Rd, encode .crc16tRd] =
    [0x13000000, 0x23000000, 0x33000000, 0x43000000] ∧
  ∀ s : State,
    exec .crc9Rd s = answerNext s (BitVec.ofNat 32 s.block.crc9.toNat) ∧
    exec .crc16Rd s = answerNext s (BitVec.ofNat 32 s.block.crc16.toNat) ∧
    exec .crc32Rd s = answerNext s s.block.crc32 ∧
    exec .crc16tRd s = answerNext s (BitVec.ofNat 32 s.block.crc16t.toNat)

/-- R173 with R176, R186, R192: a feed of the low `n` bits of a byte multiplies the register's polynomial by `x^n`, adds the
bits' polynomial, and reduces modulo the engine's generator. -/
def Obligations.CrcFeedIsAPolynomialRemainder : Prop :=
  ∀ (s : State) (b : Byte),
    (∀ n : BitVec 4, 1 ≤ n.toNat → n.toNat ≤ 8 →
      ∃ v, exec (.crc9Feed n b) s = doneNext s { s.block with crc9 := v } ∧
        bitPoly v 9 = (bitPoly s.block.crc9 9 * X ^ n.toNat + bitPoly b n.toNat) %ₘ (X ^ 9 + X ^ 6 + X ^ 4 + X ^ 3 + 1)) ∧
    (∃ v, exec (.crc16Feed b) s = doneNext s { s.block with crc16 := v } ∧
        bitPoly v 16 = (bitPoly s.block.crc16 16 * X ^ 8 + bitPoly b 8) %ₘ (X ^ 16 + X ^ 12 + X ^ 5 + 1)) ∧
    (∃ v, exec (.crc32Feed b) s = doneNext s { s.block with crc32 := v } ∧
        bitPoly v 32 = (bitPoly s.block.crc32 32 * X ^ 8 + bitPoly b 8) %ₘ (X ^ 32 + bitPoly 0x04C11DB7#32 32))

/-- R173 with R177, R187, R194: a finalize multiplies the register's polynomial by `x^8`, `x^16`, `x^32` modulo the engine's
generator. -/
def Obligations.CrcFinalizeIsAPolynomialRemainder : Prop :=
  ∀ s : State,
    (∃ v, exec .crc9Fin s = doneNext s { s.block with crc9 := v } ∧
        bitPoly v 9 = (bitPoly s.block.crc9 9 * X ^ 8) %ₘ (X ^ 9 + X ^ 6 + X ^ 4 + X ^ 3 + 1)) ∧
    (∃ v, exec .crc16Fin s = doneNext s { s.block with crc16 := v } ∧
        bitPoly v 16 = (bitPoly s.block.crc16 16 * X ^ 16) %ₘ (X ^ 16 + X ^ 12 + X ^ 5 + 1)) ∧
    (∃ v, exec .crc32Fin s = doneNext s { s.block with crc32 := v } ∧
        bitPoly v 32 = (bitPoly s.block.crc32 32 * X ^ 32) %ₘ (X ^ 32 + bitPoly 0x04C11DB7#32 32))

/-- R180: after `CRC9.CLR`, feeds whose bits in order form `M(x)`, and one `CRC9.FIN`, the register is `M(x) x^8` modulo the
generator, and all other state of the block is as before. -/
def Obligations.Crc9ClosedForm : Prop :=
  ∀ (s : State) (msg : List (BitVec 4 × Byte)), (∀ p ∈ msg, 1 ≤ p.1.toNat ∧ p.1.toNat ≤ 8) →
    ∃ v, execAll ([.crc9Clr] ++ msg.map (fun p => .crc9Feed p.1 p.2) ++ [.crc9Fin]) s
        = doneNext s { s.block with crc9 := v } ∧
      bitPoly v 9 = (messagePoly msg * X ^ 8) %ₘ (X ^ 9 + X ^ 6 + X ^ 4 + X ^ 3 + 1)

/-- R201, R203, R204, R206: a table-driven feed shifts the register right by eight and XORs in the table entry that
`CRC16T.TAB` answers for its low byte XOR the byte fed; `SET` loads any value. -/
def Obligations.TableCrcUsesItsTable : Prop :=
  ∀ s : State,
    (∀ b : Byte, ∃ e : BitVec 16,
      exec (.crc16tTab (s.block.crc16t.setWidth 8 ^^^ b)) s = answerNext s (e.setWidth 32) ∧
      exec (.crc16tFeed b) s = doneNext s { s.block with crc16t := (s.block.crc16t >>> 8) ^^^ e }) ∧
    (∀ v : BitVec 16, exec (.crc16tSet v) s = doneNext s { s.block with crc16t := v })

/-- R200, R206: each table entry is eight steps of shift-right-and-XOR from its index, and the table is linear. -/
def Obligations.TableEntriesAreEightShifts : Prop :=
  ∀ (s : State) (i j : Byte), ∃ e f : BitVec 16,
    exec (.crc16tTab i) s = answerNext s (e.setWidth 32) ∧ exec (.crc16tTab j) s = answerNext s (f.setWidth 32) ∧
    e = (fun c : BitVec 16 => if c.getLsbD 0 then (c >>> 1) ^^^ 0x8408#16 else c >>> 1)^[8] (i.setWidth 16) ∧
    exec (.crc16tTab (i ^^^ j)) s = answerNext s ((e ^^^ f).setWidth 32)

/-- R207: the table-driven engine over any bytes gives the bit-reversal of what the finalized bit-serial engine gives over the
bit-reversed bytes. -/
def Obligations.TableCrcIsTheReversedSerialCrc : Prop :=
  ∀ (s : State) (y : List Byte), ∃ t u,
    execAll ([.crc16tClr] ++ y.map (fun b => .crc16tFeed b)) s = .next t ∧
    execAll ([.crc16Clr] ++ y.map (fun b => .crc16Feed b.reverse) ++ [.crc16Fin]) s = .next u ∧
    t.block.crc16t = u.block.crc16.reverse

/-! ### Hamming units (`42_hamming.md`) -/

/-- R223, R233, R243 with R225, R235, R245: the parity bits as XORs of data bits, bit strings MSB first; no state changes. -/
def Obligations.HammingParityEquations : Prop :=
  ∀ s : State,
    (∀ d : BitVec 11, ∃ p : BitVec 4, exec (.h15Par d) s = answerNext s (p.setWidth 32) ∧
      let b := fun i => d.getMsbD i
      p.getMsbD 0 = (b 0 ^^ b 1 ^^ b 2 ^^ b 3 ^^ b 5 ^^ b 7 ^^ b 8) ∧
      p.getMsbD 1 = (b 1 ^^ b 2 ^^ b 3 ^^ b 4 ^^ b 6 ^^ b 8 ^^ b 9) ∧
      p.getMsbD 2 = (b 2 ^^ b 3 ^^ b 4 ^^ b 5 ^^ b 7 ^^ b 9 ^^ b 10) ∧
      p.getMsbD 3 = (b 0 ^^ b 1 ^^ b 2 ^^ b 4 ^^ b 6 ^^ b 7 ^^ b 10)) ∧
    (∀ d : BitVec 9, ∃ p : BitVec 4, exec (.h13Par d) s = answerNext s (p.setWidth 32) ∧
      let b := fun i => d.getMsbD i
      p.getMsbD 0 = (b 0 ^^ b 1 ^^ b 3 ^^ b 5 ^^ b 6) ∧
      p.getMsbD 1 = (b 0 ^^ b 1 ^^ b 2 ^^ b 4 ^^ b 6 ^^ b 7) ∧
      p.getMsbD 2 = (b 0 ^^ b 1 ^^ b 2 ^^ b 3 ^^ b 5 ^^ b 7 ^^ b 8) ∧
      p.getMsbD 3 = (b 0 ^^ b 2 ^^ b 4 ^^ b 5 ^^ b 8)) ∧
    (∀ d : BitVec 11, ∃ p : BitVec 5, exec (.h16Par d) s = answerNext s (p.setWidth 32) ∧
      let b := fun i => d.getMsbD i
      p.getMsbD 0 = (b 0 ^^ b 1 ^^ b 2 ^^ b 3 ^^ b 5 ^^ b 7 ^^ b 8) ∧
      p.getMsbD 1 = (b 1 ^^ b 2 ^^ b 3 ^^ b 4 ^^ b 6 ^^ b 8 ^^ b 9) ∧
      p.getMsbD 2 = (b 2 ^^ b 3 ^^ b 4 ^^ b 5 ^^ b 7 ^^ b 9 ^^ b 10) ∧
      p.getMsbD 3 = (b 0 ^^ b 1 ^^ b 2 ^^ b 4 ^^ b 6 ^^ b 7 ^^ b 10) ∧
      p.getMsbD 4 = (b 0 ^^ b 2 ^^ b 5 ^^ b 6 ^^ b 8 ^^ b 9 ^^ b 10))

/-- R220 with R226, R236, R246: a check of data `d` and parity `p` answers the parity that `PAR` answers for `d`, XOR `p`; no
state changes. -/
def Obligations.HammingCheckComparesParities : Prop :=
  ∀ s : State,
    (∀ (d : BitVec 11) (p : BitVec 4), ∃ q : BitVec 4, exec (.h15Par d) s = answerNext s (q.setWidth 32) ∧
      exec (.h15Chk (d ++ p)) s = answerNext s ((q ^^^ p).setWidth 32)) ∧
    (∀ (d : BitVec 9) (p : BitVec 4), ∃ q : BitVec 4, exec (.h13Par d) s = answerNext s (q.setWidth 32) ∧
      exec (.h13Chk (d ++ p)) s = answerNext s ((q ^^^ p).setWidth 32)) ∧
    (∀ (d : BitVec 11) (p : BitVec 5), ∃ q : BitVec 5, exec (.h16Par d) s = answerNext s (q.setWidth 32) ∧
      exec (.h16Chk (d ++ p)) s = answerNext s ((q ^^^ p).setWidth 32))

/-- R227, R237, R247: the three encodings, and the full maps from syndrome to position, 0x80000000 where no row matches; no
state changes. -/
def Obligations.HammingPositionMaps : Prop :=
  ∀ s : State,
    (∀ y : BitVec 4, (encode (.h15Pos y)).toNat = 0x52000000 + y.toNat ∧ (encode (.h13Pos y)).toNat = 0x62000000 + y.toNat) ∧
    (∀ y : BitVec 5, (encode (.h16Pos y)).toNat = 0x72000000 + y.toNat) ∧
    (∀ y : BitVec 4, exec (.h15Pos y) s = answerNext s
      (([0x80000000, 14, 13, 10, 12, 6, 9, 4, 11, 0, 5, 7, 8, 1, 3, 2] : List Word).getD y.toNat 0)) ∧
    (∀ y : BitVec 4, exec (.h13Pos y) s = answerNext s
      (([0x80000000, 12, 11, 8, 10, 4, 7, 2, 9, 0x80000000, 3, 5, 6, 0x80000000, 1, 0] : List Word).getD y.toNat 0)) ∧
    (∀ y : BitVec 5, exec (.h16Pos y) s = answerNext s
      (([0x80000000, 15, 14, 0x80000000, 13, 0x80000000, 0x80000000, 10, 12, 0x80000000, 0x80000000, 6, 0x80000000, 9, 4,
         0x80000000, 11, 0x80000000, 0x80000000, 0, 0x80000000, 5, 7, 0x80000000, 0x80000000, 8, 1, 0x80000000, 3,
         0x80000000, 0x80000000, 2] : List Word).getD y.toNat 0))

/-- R221, R228, R238, R248 with R224 (a), R234 (a), R244 (c): what the three `COR` commands answer and record, by the syndrome
of their word: clean and unchanged, or the bit of the row equal to the syndrome flipped, or uncorrectable and unchanged. -/
def Obligations.HammingCorrectionOutcomes : Prop :=
  ∀ s : State,
    (∀ w : BitVec 15,
      (hamSyn params.gH15 w = 0 → exec (.h15Cor w) s = .next { s with
        block := { s.block with status := withResult s.block.status 0 0 0 }
        out := some { rsp := BitVec.ofNat 32 w.toNat, err := false } }) ∧
      (hamSyn params.gH15 w ≠ 0 → ∃ i < 15, (hamRows params.gH15)[i]? = some (hamSyn params.gH15 w) ∧
        exec (.h15Cor w) s = .next { s with
          block := { s.block with status := withResult s.block.status 1 i 1 }
          out := some { rsp := BitVec.ofNat 32 (2 ^ 30 + i * 2 ^ 24 + (w ^^^ BitVec.twoPow 15 (14 - i)).toNat)
                        err := false } })) ∧
    (∀ w : BitVec 13,
      (hamSyn params.gH13 w = 0 → exec (.h13Cor w) s = .next { s with
        block := { s.block with status := withResult s.block.status 0 0 0 }
        out := some { rsp := BitVec.ofNat 32 w.toNat, err := false } }) ∧
      (hamSyn params.gH13 w ∈ [0x9#4, 0xD#4] → exec (.h13Cor w) s = .next { s with
        block := { s.block with status := withResult s.block.status 2 0 0 }
        out := some { rsp := BitVec.ofNat 32 (2 * 2 ^ 30 + w.toNat), err := false } }) ∧
      (hamSyn params.gH13 w ∉ [0x0#4, 0x9#4, 0xD#4] →
        ∃ i < 13, (hamRows params.gH13)[i]? = some (hamSyn params.gH13 w) ∧
        exec (.h13Cor w) s = .next { s with
          block := { s.block with status := withResult s.block.status 1 i 1 }
          out := some { rsp := BitVec.ofNat 32 (2 ^ 30 + i * 2 ^ 24 + (w ^^^ BitVec.twoPow 13 (12 - i)).toNat)
                        err := false } })) ∧
    (∀ w : BitVec 16,
      (hamSyn params.gH16 w = 0 → exec (.h16Cor w) s = .next { s with
        block := { s.block with status := withResult s.block.status 0 0 0 }
        out := some { rsp := BitVec.ofNat 32 w.toNat, err := false } }) ∧
      (hamSyn params.gH16 w ≠ 0 → weight (hamSyn params.gH16 w) % 2 = 0 → exec (.h16Cor w) s = .next { s with
        block := { s.block with status := withResult s.block.status 2 0 0 }
        out := some { rsp := BitVec.ofNat 32 (2 * 2 ^ 30 + w.toNat), err := false } }) ∧
      (weight (hamSyn params.gH16 w) % 2 = 1 →
        ∃ i < 16, (hamRows params.gH16)[i]? = some (hamSyn params.gH16 w) ∧
        exec (.h16Cor w) s = .next { s with
          block := { s.block with status := withResult s.block.status 1 i 1 }
          out := some { rsp := BitVec.ofNat 32 (2 ^ 30 + i * 2 ^ 24 + (w ^^^ BitVec.twoPow 16 (15 - i)).toNat)
                        err := false } }))

/-- R221 and U12: for every generator whose rows, unit rows included, are distinct and not zero, `ham_cor` restores a passing
word with one bit flipped and reports the bit; and a corrected word always passes. -/
def Obligations.DistinctRowsLocateSingleErrors : Prop :=
  ∀ (k m : Nat) (G : Vector (BitVec m) k), (hamRows G).Nodup → 0#m ∉ hamRows G →
    (∀ w : BitVec (k + m), hamSyn G w = 0 → ∀ i < k + m, hamCor G (flipBit w i) = ⟨.corrected, i, w⟩) ∧
    (∀ w : BitVec (k + m), (hamCor G w).cat = .corrected → hamSyn G (hamCor G w).word = 0)

/-- R224 (b), R234 (b), R221: `COR` of a code word with bit `i` flipped answers the code word, `corrected` and `i`. -/
def Obligations.SingleErrorsAreCorrected : Prop :=
  ∀ s : State,
    (∀ (d : BitVec 11), ∃ p : BitVec 4, exec (.h15Par d) s = answerNext s (p.setWidth 32) ∧ ∀ i < 15,
      exec (.h15Cor ((d ++ p) ^^^ BitVec.twoPow 15 (14 - i))) s = .next { s with
        block := { s.block with status := withResult s.block.status 1 i 1 }
        out := some { rsp := BitVec.ofNat 32 (2 ^ 30 + i * 2 ^ 24 + (d ++ p).toNat), err := false } }) ∧
    (∀ (d : BitVec 9), ∃ p : BitVec 4, exec (.h13Par d) s = answerNext s (p.setWidth 32) ∧ ∀ i < 13,
      exec (.h13Cor ((d ++ p) ^^^ BitVec.twoPow 13 (12 - i))) s = .next { s with
        block := { s.block with status := withResult s.block.status 1 i 1 }
        out := some { rsp := BitVec.ofNat 32 (2 ^ 30 + i * 2 ^ 24 + (d ++ p).toNat), err := false } }) ∧
    (∀ (d : BitVec 11), ∃ p : BitVec 5, exec (.h16Par d) s = answerNext s (p.setWidth 32) ∧ ∀ i < 16,
      exec (.h16Cor ((d ++ p) ^^^ BitVec.twoPow 16 (15 - i))) s = .next { s with
        block := { s.block with status := withResult s.block.status 1 i 1 }
        out := some { rsp := BitVec.ofNat 32 (2 ^ 30 + i * 2 ^ 24 + (d ++ p).toNat), err := false } })

/-- R244 (d): every double-bit error in a code word of H16 is reported uncorrectable, with the word unchanged. -/
def Obligations.DoubleErrorsInH16AreDetected : Prop :=
  ∀ (s : State) (w : BitVec 16), hamSyn params.gH16 w = 0 → ∀ i j, i < j → j < 16 →
    exec (.h16Cor (flipBit (flipBit w i) j)) s = .next { s with
      block := { s.block with status := withResult s.block.status 2 0 0 }
      out := some { rsp := BitVec.ofNat 32 (2 * 2 ^ 30 + (flipBit (flipBit w i) j).toNat), err := false } }

/-! ### Golay and quadratic-residue units (`43_golay_qr.md`) -/

/-- R261, R271 with R263, R274, R276: the parity bits of both codes as XORs of data bits, and `QR.ENC` as data then parity; no
state changes. -/
def Obligations.GolayAndQrParityEquations : Prop :=
  ∀ s : State,
    (∀ d : BitVec 8, ∃ p : BitVec 12, exec (.golayPar d) s = answerNext s (p.setWidth 32) ∧
      let b := fun i => d.getMsbD i
      p.getMsbD 0 = (b 1 ^^ b 4 ^^ b 5 ^^ b 6 ^^ b 7) ∧
      p.getMsbD 1 = (b 1 ^^ b 2 ^^ b 4) ∧
      p.getMsbD 2 = (b 0 ^^ b 2 ^^ b 3 ^^ b 5) ∧
      p.getMsbD 3 = (b 0 ^^ b 1 ^^ b 3 ^^ b 4 ^^ b 6) ∧
      p.getMsbD 4 = (b 0 ^^ b 1 ^^ b 2 ^^ b 4 ^^ b 5 ^^ b 7) ∧
      p.getMsbD 5 = (b 0 ^^ b 2 ^^ b 3 ^^ b 4 ^^ b 7) ∧
      p.getMsbD 6 = (b 3 ^^ b 6 ^^ b 7) ∧
      p.getMsbD 7 = (b 0 ^^ b 1 ^^ b 5 ^^ b 6) ∧
      p.getMsbD 8 = (b 0 ^^ b 1 ^^ b 2 ^^ b 6 ^^ b 7) ∧
      p.getMsbD 9 = (b 2 ^^ b 3 ^^ b 4 ^^ b 5 ^^ b 6) ∧
      p.getMsbD 10 = (b 0 ^^ b 3 ^^ b 4 ^^ b 5 ^^ b 6 ^^ b 7) ∧
      p.getMsbD 11 = (b 1 ^^ b 2 ^^ b 3 ^^ b 5 ^^ b 7)) ∧
    (∀ d : BitVec 7, ∃ p : BitVec 9, exec (.qrPar d) s = answerNext s (p.setWidth 32) ∧
      exec (.qrEnc d) s = answerNext s (BitVec.ofNat 32 (d.toNat * 2 ^ 9 + p.toNat)) ∧
      let b := fun i => d.getMsbD i
      p.getMsbD 0 = (b 1 ^^ b 2 ^^ b 3 ^^ b 4) ∧
      p.getMsbD 1 = (b 2 ^^ b 3 ^^ b 4 ^^ b 5) ∧
      p.getMsbD 2 = (b 0 ^^ b 3 ^^ b 4 ^^ b 5 ^^ b 6) ∧
      p.getMsbD 3 = (b 2 ^^ b 3 ^^ b 5 ^^ b 6) ∧
      p.getMsbD 4 = (b 1 ^^ b 2 ^^ b 6) ∧
      p.getMsbD 5 = (b 0 ^^ b 1 ^^ b 4) ∧
      p.getMsbD 6 = (b 0 ^^ b 1 ^^ b 2 ^^ b 5) ∧
      p.getMsbD 7 = (b 0 ^^ b 1 ^^ b 2 ^^ b 3 ^^ b 6) ∧
      p.getMsbD 8 = (b 0 ^^ b 2 ^^ b 4 ^^ b 5 ^^ b 6))

/-- R264, R275: a check of data `d` and parity `p` is clean exactly when `p` is the parity that `PAR` answers for `d`, else
uncorrectable; it answers the syndrome, records the category with `POS` and `CNT` 0, and changes nothing else. -/
def Obligations.ChecksAreCleanExactlyOnCodeWords : Prop :=
  ∀ s : State,
    (∀ (d : BitVec 8) (p : BitVec 12), ∃ q : BitVec 12, exec (.golayPar d) s = answerNext s (q.setWidth 32) ∧
      exec (.golayChk (d ++ p)) s = .next { s with
        block := { s.block with status := withResult s.block.status (if p = q then 0 else 2) 0 0 }
        out := some { rsp := BitVec.ofNat 32 ((if p = q then 0 else 2 * 2 ^ 30) + (q ^^^ p).toNat), err := false } }) ∧
    (∀ (d : BitVec 7) (p : BitVec 9), ∃ q : BitVec 9, exec (.qrPar d) s = answerNext s (q.setWidth 32) ∧
      exec (.qrChk (d ++ p)) s = .next { s with
        block := { s.block with status := withResult s.block.status (if p = q then 0 else 2) 0 0 }
        out := some { rsp := BitVec.ofNat 32 ((if p = q then 0 else 2 * 2 ^ 30) + (q ^^^ p).toNat), err := false } })

/-- R262, R273: an error of 1 to 7 bits in a Golay code word, or of 1 to 5 bits in a QR code word, is never reported clean. -/
def Obligations.ErrorsBelowTheDistanceAreDetected : Prop :=
  ∀ s : State,
    (∀ w e : BitVec 20, hamSyn params.gGolay w = 0 → e ≠ 0 → weight e ≤ 7 →
      ∃ t, exec (.golayChk (w ^^^ e)) s = .next t ∧ t.block.status.st = 2) ∧
    (∀ w e : BitVec 16, hamSyn params.gQr w = 0 → e ≠ 0 → weight e ≤ 5 →
      ∃ t, exec (.qrChk (w ^^^ e)) s = .next t ∧ t.block.status.st = 2)

/-! ### Reed-Solomon unit (`44_reed_solomon.md`) -/

/-- R310, R311: with their encodings, `RS.LD` writes the one byte and no other, `RS.RD` answers it and changes nothing, and both are illegal at an
index above 11. -/
def Obligations.RsBytesLoadAndRead : Prop :=
  ∀ (s : State) (i : BitVec 4) (b : Byte),
    (encode (.rsLd i b)).toNat = 0xA0000000 + i.toNat * 2 ^ 8 + b.toNat ∧
    (encode (.rsRd i)).toNat = 0xA1000000 + i.toNat * 2 ^ 8 ∧
    (∀ k : Fin 12, k.val = i.toNat →
      (∃ v : Vector Byte 12, exec (.rsLd i b) s = doneNext s { s.block with rs := v } ∧
        ∀ j : Fin 12, v[j] = if j = k then b else s.block.rs[j]) ∧
      exec (.rsRd i) s = answerNext s (s.block.rs[k].setWidth 32)) ∧
    (11 < i.toNat → exec (.rsLd i b) s = illegalNext s 3 ∧ exec (.rsRd i) s = illegalNext s 3)

/-- R291, R315: `RS.MUL`, with its encoding, answers the product of the two polynomials modulo `z^8 + z^4 + z^3 + z^2 + 1`. -/
def Obligations.FieldProductIsAPolynomialRemainder : Prop :=
  ∀ (s : State) (a b : Byte), (encode (.rsMul a b)).toNat = 0xA5000000 + a.toNat * 2 ^ 8 + b.toNat ∧
    ∃ r : Byte, exec (.rsMul a b) s = answerNext s (r.setWidth 32) ∧
    bitPoly r 8 = (bitPoly a 8 * bitPoly b 8) %ₘ (X ^ 8 + X ^ 4 + X ^ 3 + X ^ 2 + 1)

/-- R295, with R315, R316: `RS.MUL` answers `gf_mul` and `RS.EXP` the powers of 0x02 for `GF_POLY = 0x11D`, and these obey the
field laws. -/
def Obligations.FieldLaws : Prop :=
  (∀ (s : State) (a b : Byte), exec (.rsMul a b) s = answerNext s ((gfMul 0x11D a b).setWidth 32)) ∧
  (∀ (s : State) (i : Byte), exec (.rsExp i) s = answerNext s ((gfPow 0x11D i.toNat).setWidth 32)) ∧
  (∀ a b : Byte, gfMul 0x11D a b = gfMul 0x11D b a) ∧
  (∀ a b c : Byte, gfMul 0x11D (gfMul 0x11D a b) c = gfMul 0x11D a (gfMul 0x11D b c)) ∧
  (∀ a b c : Byte, gfMul 0x11D a (b ^^^ c) = gfMul 0x11D a b ^^^ gfMul 0x11D a c) ∧
  (∀ a : Byte, gfMul 0x11D a 1 = a ∧ gfMul 0x11D a 0 = 0) ∧
  (∀ a : Byte, a ≠ 0 → ∃! b : Byte, gfMul 0x11D a b = 1) ∧
  (∀ i j, i < 255 → j < 255 → gfPow 0x11D i = gfPow 0x11D j → i = j) ∧ gfPow 0x11D 255 = 1

/-- R292, R316, R317: `RS.EXP` answers 1 at 0, each power twice the one before, 1 at 255; `RS.LOG` inverts it on 0..254 and
has no answer for 0; neither changes any state. -/
def Obligations.ExpAndLogAreInverse : Prop :=
  ∀ s : State,
    (∀ i : Byte, ∃ e : Byte, exec (.rsExp i) s = answerNext s (e.setWidth 32) ∧ (i = 0 → e = 1) ∧ (i = 255 → e = 1) ∧
      (i ≠ 255 → exec (.rsLog e) s = answerNext s (i.setWidth 32)) ∧
      (i.toNat < 254 → exec (.rsExp (i + 1)) s = answerNext s ((gfMul 0x11D e 2).setWidth 32))) ∧
    (∀ v : Byte, v ≠ 0 → ∃ k : Byte, k ≠ 255 ∧ exec (.rsLog v) s = answerNext s (k.setWidth 32) ∧
      exec (.rsExp k) s = answerNext s (v.setWidth 32)) ∧
    exec (.rsLog 0) s = answerNext s 0x80000000

/-- R302, R305, R313: `RS.SYN` answers the values of the word's polynomial, byte 0 of degree 11, at `α`, `α^2`, `α^3`, and
changes nothing. -/
def Obligations.SyndromesEvaluateTheWord : Prop :=
  ∀ s : State,
    let value := fun j : Nat => (List.range 12).foldl
      (fun acc i => acc ^^^ gfMul 0x11D (s.block.rs.toList.getD i 0) (gfPow 0x11D (j * (11 - i)))) (0 : Byte)
    exec .rsSyn s = answerNext s
      (BitVec.ofNat 32 ((value 1).toNat * 2 ^ 16 + (value 2).toNat * 2 ^ 8 + (value 3).toNat))

/-- R303, R304, R312: `RS.ENC` keeps the nine data bytes, writes the three check bytes, and leaves a code word: `RS.SYN` then
answers 0. -/
def Obligations.RsEncodingYieldsACodeWord : Prop :=
  ∀ s : State, ∃ v : Vector Byte 12, exec .rsEnc s = doneNext s { s.block with rs := v } ∧
    (∀ j : Fin 12, j.val < 9 → v[j] = s.block.rs[j]) ∧
    ∀ t : State, t.block.rs = v → exec .rsSyn t = answerNext t 0

/-- R307 (a): two different code words differ in at least four bytes, and some two differ in exactly four. -/
def Obligations.RsMinimumDistanceIsFour : Prop :=
  (∀ s t : State, exec .rsSyn s = answerNext s 0 → exec .rsSyn t = answerNext t 0 → s.block.rs ≠ t.block.rs →
    4 ≤ (List.finRange 12).countP (fun i : Fin 12 => decide (s.block.rs[i] ≠ t.block.rs[i]))) ∧
  (∃ s t : State, exec .rsSyn s = answerNext s 0 ∧ exec .rsSyn t = answerNext t 0 ∧
    (List.finRange 12).countP (fun i : Fin 12 => decide (s.block.rs[i] ≠ t.block.rs[i])) = 4)

/-- R307 (b): a code word with exactly one byte changed is restored by `RS.DEC`, which answers and records the right index and
magnitude. -/
def Obligations.RsSingleErrorsAreCorrected : Prop :=
  ∀ (s : State) (p : Fin 12) (e : Byte), exec .rsSyn s = answerNext s 0 → e ≠ 0 →
    exec .rsDec { s with block := { s.block with rs := s.block.rs.set p.val (s.block.rs[p] ^^^ e) p.isLt } } =
      .next { s with
        block := { s.block with status := withResult s.block.status 1 p.val 1 }
        out := some { rsp := BitVec.ofNat 32 (2 ^ 30 + p.val * 2 ^ 24 + e.toNat), err := false } }

/-- R307 (c): a code word with exactly two bytes changed is reported uncorrectable and left unchanged. -/
def Obligations.RsDoubleErrorsAreUncorrectable : Prop :=
  ∀ s t : State, exec .rsSyn s = answerNext s 0 →
    (List.finRange 12).countP (fun i : Fin 12 => decide (t.block.rs[i] ≠ s.block.rs[i])) = 2 →
    exec .rsDec t = .next { t with
      block := { t.block with status := withResult t.block.status 2 0 0 }
      out := some { rsp := 0x80000000, err := false } }

/-- R306, R314, R307 (e), (f): `RS.DEC` is clean exactly on a code word and then, as where it is uncorrectable, keeps the
buffer; where it corrects, it changes the one byte it reports by the magnitude it reports and leaves a code word. -/
def Obligations.RsDecodeOutcomes : Prop :=
  ∀ s : State,
    (exec .rsSyn s = answerNext s 0 → exec .rsDec s = .next { s with
      block := { s.block with status := withResult s.block.status 0 0 0 }
      out := some { rsp := 0, err := false } }) ∧
    (exec .rsSyn s ≠ answerNext s 0 →
      (exec .rsDec s = .next { s with
        block := { s.block with status := withResult s.block.status 2 0 0 }
        out := some { rsp := 0x80000000, err := false } }) ∨
      (∃ (p : Fin 12) (e : Byte), e ≠ 0 ∧
        exec .rsDec s = .next { s with
          block := { s.block with
            rs := s.block.rs.set p.val (s.block.rs[p] ^^^ e) p.isLt
            status := withResult s.block.status 1 p.val 1 }
          out := some { rsp := BitVec.ofNat 32 (2 ^ 30 + p.val * 2 ^ 24 + e.toNat), err := false } } ∧
        ∀ t, exec .rsDec s = .next t → exec .rsSyn t = answerNext t 0))

/-! ### BPTC unit (`45_bptc.md`) -/

/-- R343, R344, R350, R354: with their words, `BPTC.DEINT` puts `IN[(a * 181) mod 196]` into `MX[a]`, `BPTC.INT` puts `MX[a]` into
`IN[(a * 181) mod 196]`, for every `a`; each keeps all other state. -/
def Obligations.InterleaverMovesEveryBit : Prop :=
  encode .bptcDeint = 0xB6000000 ∧ encode .bptcInt = 0xBA000000 ∧ ∀ s : State,
    (∃ v, exec .bptcDeint s = doneNext s { s.block with mx := v } ∧
      ∀ a < 196, v.getMsbD a = s.block.inBuf.getMsbD ((a * 181) % 196)) ∧
    (∃ v, exec .bptcInt s = doneNext s { s.block with inBuf := v } ∧
      ∀ a < 196, v.getMsbD ((a * 181) % 196) = s.block.mx.getMsbD a)

/-- R344: interleave then deinterleave restores `MX`, and deinterleave then interleave restores `IN`. -/
def Obligations.InterleaveAndDeinterleaveAreInverse : Prop :=
  ∀ s : State,
    (∃ t, execAll [.bptcInt, .bptcDeint] s = .next t ∧ t.block.mx = s.block.mx) ∧
    (∃ t, execAll [.bptcDeint, .bptcInt] s = .next t ∧ t.block.inBuf = s.block.inBuf)

/-- R341, R355: `BPTC.DM a`, with its encoding, answers `(a * 181) mod 196` for `a` in 0..195, is illegal above, and no two indices have the same
entry. -/
def Obligations.DeinterleaveTableIsABijection : Prop :=
  ∀ (s : State) (a : Byte), (encode (.bptcDm a)).toNat = 0xBB000000 + a.toNat ∧
    (a.toNat ≤ 195 → exec (.bptcDm a) s = answerNext s (BitVec.ofNat 32 ((a.toNat * 181) % 196)) ∧
      ∀ b : Byte, b.toNat ≤ 195 → exec (.bptcDm b) s = exec (.bptcDm a) s → a = b) ∧
    (195 < a.toNat → exec (.bptcDm a) s = illegalNext s 3)

/-- R347, R352: `BPTC.EXTRACT`, the word 0xB8000000, takes `DAT[0..7]` from `MX[4..11]` and `DAT[8 + 11(r-1) + c]` from `MX[1 + 15r + c]`, and keeps
all other state. -/
def Obligations.ExtractTakesTheDataColumns : Prop :=
  encode .bptcExtract = 0xB8000000 ∧ ∀ s : State, ∃ v, exec .bptcExtract s = doneNext s { s.block with dat := v } ∧
    (∀ k < 8, v.getMsbD k = s.block.mx.getMsbD (4 + k)) ∧
    (∀ r c, 1 ≤ r → r ≤ 8 → c ≤ 10 → v.getMsbD (8 + 11 * (r - 1) + c) = s.block.mx.getMsbD (1 + 15 * r + c))

/-- R342, R348, R349 (b), R353: `BPTC.ENC` leaves the four reserved bits 0, the data in their places, every column a word that
passes the column code and every row 0..12 a word that passes the row code, and keeps all other state. -/
def Obligations.EncodeBuildsAProductCodeWord : Prop :=
  ∀ s : State, ∃ v, exec .bptcEnc s = doneNext s { s.block with mx := v } ∧
    (∀ a < 4, v.getMsbD a = false) ∧
    (∀ k < 8, v.getMsbD (4 + k) = s.block.dat.getMsbD k) ∧
    (∀ r c, 1 ≤ r → r ≤ 8 → c ≤ 10 → v.getMsbD (1 + 15 * r + c) = s.block.dat.getMsbD (8 + 11 * (r - 1) + c)) ∧
    (∀ c < 15, hamSyn params.gH13 (column v c) = 0) ∧ (∀ r < 13, hamSyn params.gH15 (row v r) = 0)

/-- R349 (a): encode, interleave, deinterleave, extract gives every 96-bit data back, and a repair in between is clean and
changes nothing. -/
def Obligations.EncodeThenDecodeRestoresTheData : Prop :=
  ∀ s : State,
    (∃ t, execAll [.bptcEnc, .bptcInt, .bptcDeint, .bptcExtract] s = .next t ∧ t.block.dat = s.block.dat) ∧
    (∃ t, execAll [.bptcEnc, .bptcInt, .bptcDeint, .bptcRepair, .bptcExtract] s = .next t ∧
      t.block.dat = s.block.dat ∧ t.block.status = withResult s.block.status 0 0 0)

/-- R349 (a), (c), (d): one flipped bit of an encoded word, in transmitted order, is repaired, counted and located at its `MX`
index; the reserved bit `IN[0]` is not seen; the data come back in both cases. -/
def Obligations.SingleTransmissionErrorsAreRepaired : Prop :=
  ∀ (s : State) (e : Nat), e < 196 → ∃ t u,
    execAll [.bptcEnc, .bptcInt] s = .next t ∧
    execAll [.bptcDeint, .bptcRepair, .bptcExtract]
      { t with block := { t.block with inBuf := t.block.inBuf ^^^ BitVec.twoPow 196 (195 - e) } } = .next u ∧
    u.block.dat = s.block.dat ∧
    u.block.status = (if e = 0 then withResult s.block.status 0 0 0
      else withResult s.block.status 1 ((e * 13) % 196) 1)

/-- R345, R346, R351, with the spec's decision D19 that both passes run to the end: what `BPTC.REPAIR` answers and records. `u`
is `MX` after the column pass and `v` after the row pass: each column, then each data row, is replaced by the word that `ham_cor`
gives for it (R221), and nothing else changes. `cnt` counts the flips; `pos` is the index of the last flip, in the last
corrected data row, else in the last corrected column, else 0. It is uncorrectable exactly where a column of the word has
syndrome 0x9 or 0xD (R234 (a)), clean exactly where every column and every data row passes. -/
def Obligations.RepairOutcomes : Prop :=
  ∀ s : State, ∃ (u v : BitVec 196) (st : BitVec 2) (cnt pos : Nat),
    let col := fun c => hamCor params.gH13 (column s.block.mx c)
    let line := fun r => hamCor params.gH15 (row u r)
    exec .bptcRepair s = .next { s with
      block := { s.block with mx := v, status := withResult s.block.status st pos cnt }
      out := some { rsp := BitVec.ofNat 32 (st.toNat * 2 ^ 30 + cnt * 2 ^ 16 + pos), err := false } } ∧
    u.getMsbD 0 = s.block.mx.getMsbD 0 ∧ (∀ c < 15, column u c = (col c).word) ∧
    v.getMsbD 0 = u.getMsbD 0 ∧ (∀ r < 9, row v r = (line r).word) ∧ (∀ r < 13, 9 ≤ r → row v r = row u r) ∧
    cnt = (List.range 15).countP (fun c => (col c).cat = .corrected) +
      (List.range 9).countP (fun r => (line r).cat = .corrected) ∧
    (∀ r < 9, (line r).cat = .corrected → (∀ r' < 9, r < r' → (line r').cat ≠ .corrected) →
      pos = 1 + 15 * r + (line r).pos) ∧
    ((∀ r < 9, (line r).cat ≠ .corrected) →
      ∀ c < 15, (col c).cat = .corrected → (∀ c' < 15, c < c' → (col c').cat ≠ .corrected) →
        pos = 1 + 15 * (col c).pos + c) ∧
    (cnt = 0 → pos = 0) ∧ cnt ≤ 24 ∧ pos ≤ 195 ∧ st ≠ 3 ∧
    (cnt = 0 ↔ v = s.block.mx ∧ pos = 0) ∧
    (st = 2 ↔ ∃ c < 15, hamSyn params.gH13 (column s.block.mx c) ∈ [0x9#4, 0xD#4]) ∧
    (st = 0 ↔ (∀ c < 15, hamSyn params.gH13 (column s.block.mx c) = 0) ∧
      ∀ r < 9, hamSyn params.gH15 (row s.block.mx r) = 0) ∧
    (st = 0 → v = s.block.mx ∧ cnt = 0 ∧ pos = 0) ∧
    (∀ r < 9, hamSyn params.gH15 (row v r) = 0)
end

