-- ==== Sys2Proof/Laws/Bits.lean ====
section
/-! SUPPORT. Bit strings: what each shared operation of Machine/Bits.lean does, element by element. -/

namespace Sys2Proof.Machine

/-- Two bit strings with the same elements are equal. -/
theorem bitAt_ext {n : Nat} {a b : BitVec n} (h : ∀ i, i < n → bitAt a i = bitAt b i) : a = b :=
  BitVec.eq_of_getMsbD_eq (fun i hi => h i hi)

/-- An element beyond the end of a bit string reads 0 (R72). -/
theorem bitAt_of_ge {n : Nat} (a : BitVec n) {i : Nat} (h : n ≤ i) : bitAt a i = false := by
  simp [bitAt, BitVec.getMsbD, Nat.not_lt.mpr h]

/-- Element `i` of the bit string made from `f` is `f i`, inside its length. -/
theorem bitAt_ofBits (n : Nat) (f : Nat → Bool) (i : Nat) : bitAt (ofBits n f) i = (decide (i < n) && f i) := by
  induction n with
  | zero => simp [bitAt, ofBits, BitVec.getMsbD]
  | succ n ih =>
    simp only [bitAt] at ih ⊢
    rw [ofBits, BitVec.getMsbD_concat, ih]
    rcases Nat.lt_trichotomy i n with h | h | h
    · simp [h, Nat.lt_succ_of_lt h]
    · subst h; simp
    · simp [Nat.not_lt.mpr (Nat.le_of_lt h), Nat.not_lt.mpr (Nat.succ_le_of_lt h), show ¬ i = n by omega]

@[simp] theorem bitAt_ofBits_lt {n : Nat} (f : Nat → Bool) {i : Nat} (h : i < n) : bitAt (ofBits n f) i = f i := by
  simp [bitAt_ofBits, h]

/-- A bit string is made of its own elements. -/
@[simp] theorem ofBits_bitAt {n : Nat} (a : BitVec n) : ofBits n (bitAt a) = a :=
  bitAt_ext (fun i hi => by simp [hi])

@[simp] theorem bitAt_zero {n : Nat} (i : Nat) : bitAt (0#n) i = false := by simp [bitAt]

@[simp] theorem bitAt_xor {n : Nat} (a b : BitVec n) (i : Nat) : bitAt (a ^^^ b) i = (bitAt a i ^^ bitAt b i) := by
  simp [bitAt]

/-- The bit string with the one element `i`. -/
theorem bitAt_twoPow {n i : Nat} (hi : i < n) (j : Nat) : bitAt (BitVec.twoPow n (n - 1 - i)) j = decide (j = i) := by
  by_cases hj : j < n
  · simp only [bitAt, BitVec.getMsbD, hj, decide_true, Bool.true_and, BitVec.getLsbD_twoPow]
    rw [Bool.eq_iff_iff]
    simp only [Bool.and_eq_true, decide_eq_true_eq]
    omega
  · rw [bitAt_of_ge _ (Nat.not_lt.mp hj), eq_comm, decide_eq_false_iff_not]
    omega

/-- `flipBit` changes the one element, and nothing beyond the end. -/
theorem bitAt_flipBit {n : Nat} (a : BitVec n) (i j : Nat) :
    bitAt (flipBit a i) j = if j = i ∧ i < n then !bitAt a j else bitAt a j := by
  unfold flipBit
  by_cases hi : i < n
  · simp only [hi, and_true, if_true, bitAt_xor, bitAt_twoPow hi]
    by_cases hj : j = i <;> simp [hj]
  · simp [hi]

/-- The byte read at index `i` holds elements `8i` to `8i + 7` of the buffer, those beyond its end as 0 (R72). -/
theorem bitAt_memRead {n : Nat} (buf : BitVec n) (i k : Nat) :
    bitAt (memRead buf i) k = (decide (k < 8) && bitAt buf (8 * i + k)) := by
  simp [memRead, bitAt_ofBits]

/-- A byte written at index `i` changes elements `8i` to `8i + 7` of the buffer and no other (R72). -/
theorem bitAt_memWrite {n : Nat} (buf : BitVec n) (i : Nat) (b : Byte) (j : Nat) (hj : j < n) :
    bitAt (memWrite buf i b) j = if 8 * i ≤ j ∧ j < 8 * i + 8 then bitAt b (j - 8 * i) else bitAt buf j := by
  simp [memWrite, hj]

end Sys2Proof.Machine
end

