-- ==== Sys2Proof/Machine/Parametric.lean ====
section
/-! DEFINITION. The machine for any values of the parameters of `00_scope.md` R7, so that a claim can be stated for every
admissible value (`93_implementation_defined.md` U12). `exec` and `step` are this machine at `params`
(Sys2Proof/Laws/Parametric.lean); a meaning that reads no parameter is the same for all. -/

namespace Sys2Proof.Machine

/-- The machine right after reset, for the parameters `p` (R50). -/
def State.resetWith (p : Config) : State := { block := Block.resetWith p, inputs := [], out := none }

/-- The meaning of every command, for the parameters `p`. -/
def execWith (p : Config) (i : Instr) (s : State) : Host.Outcome State Fault Refusal :=
  match i with
  | .nop => execNop s
  | .status => execStatus s
  | .reset => execResetWith p s
  | .crc9Clr => execCrc9Clr s
  | .crc9Feed n b => execCrc9FeedWith p n b s
  | .crc9Fin => execCrc9FinWith p s
  | .crc9Rd => execCrc9Rd s
  | .crc16Clr => execCrc16Clr s
  | .crc16Feed b => execCrc16FeedWith p b s
  | .crc16Fin => execCrc16FinWith p s
  | .crc16Rd => execCrc16Rd s
  | .crc32Clr => execCrc32Clr s
  | .crc32Feed b => execCrc32FeedWith p b s
  | .crc32Fin => execCrc32FinWith p s
  | .crc32Rd => execCrc32Rd s
  | .crc16tClr => execCrc16tClrWith p s
  | .crc16tFeed b => execCrc16tFeedWith p b s
  | .crc16tRd => execCrc16tRd s
  | .crc16tSet v => execCrc16tSet v s
  | .crc16tTab k => execCrc16tTabWith p k s
  | .h15Par d => execH15ParWith p d s
  | .h15Chk w => execH15ChkWith p w s
  | .h15Pos syn => execH15PosWith p syn s
  | .h15Cor w => execH15CorWith p w s
  | .h13Par d => execH13ParWith p d s
  | .h13Chk w => execH13ChkWith p w s
  | .h13Pos syn => execH13PosWith p syn s
  | .h13Cor w => execH13CorWith p w s
  | .h16Par d => execH16ParWith p d s
  | .h16Chk w => execH16ChkWith p w s
  | .h16Pos syn => execH16PosWith p syn s
  | .h16Cor w => execH16CorWith p w s
  | .golayPar d => execGolayParWith p d s
  | .golayChk w => execGolayChkWith p w s
  | .qrPar d => execQrParWith p d s
  | .qrChk w => execQrChkWith p w s
  | .qrEnc d => execQrEncWith p d s
  | .rsLd k b => execRsLd k b s
  | .rsRd k => execRsRd k s
  | .rsEnc => execRsEncWith p s
  | .rsSyn => execRsSynWith p s
  | .rsDec => execRsDecWith p s
  | .rsMul a b => execRsMulWith p a b s
  | .rsExp k => execRsExpWith p k s
  | .rsLog v => execRsLogWith p v s
  | .inLdb k b => execInLdb k b s
  | .inRdb k => execInRdb k s
  | .mxLdb k b => execMxLdb k b s
  | .mxRdb k => execMxRdb k s
  | .datLdb k b => execDatLdb k b s
  | .datRdb k => execDatRdb k s
  | .bptcDeint => execBptcDeintWith p s
  | .bptcRepair => execBptcRepairWith p s
  | .bptcExtract => execBptcExtract s
  | .bptcEnc => execBptcEncWith p s
  | .bptcInt => execBptcIntWith p s
  | .bptcDm a => execBptcDmWith p a s

/-- One step, for the parameters `p`. -/
def stepWith (p : Config) (s : State) : Host.Outcome State Fault Refusal :=
  match s.acceptWith p with
  | (none, t) => .next t
  | (some w, t) =>
    match decode w with
    | .error c => t.raiseIllegal c
    | .ok i => execWith p i t

end Sys2Proof.Machine
end

