-- ==== Sys2Proof/Laws/Parametric.lean ====
section
/-! SUPPORT. The machine of this hardware is the parametric machine at `params`, and the width parameters have the width of
`Word`. -/

namespace Sys2Proof.Machine

/-- `CMD_W` and `RSP_W` are the width of `Word` (R7). -/
theorem word_has_the_parameter_widths : Word = BitVec params.cmdW ∧ Word = BitVec params.rspW := ⟨rfl, rfl⟩

theorem resetWith_params : State.resetWith params = State.reset := rfl

theorem execWith_params (i : Instr) (s : State) : execWith params i s = exec i s := by cases i <;> rfl

theorem stepWith_params (s : State) : stepWith params s = step s := by
  unfold stepWith step State.accept
  rcases s.acceptWith params with ⟨_ | w, t⟩
  · rfl
  · dsimp only
    cases decode w with
    | error c => rfl
    | ok i => exact execWith_params i t

end Sys2Proof.Machine
end

