-- ==== Sys2Proof/Laws/PerInstr.lean ====
section
/-! SUPPORT. Statements about every command, one lemma per constructor: `EncodesIntoItsRow` says that a command's word is
selected by the row of its opcode byte, `cmd & mask == match` (`30_encoding.md` R104). -/

namespace Sys2Proof.Laws

/-- The word of `i` is selected by the row of its opcode byte. -/
def EncodesIntoItsRow.Statement (i : Instr) : Prop :=
  ∃ r, rowOf (opByte (encode i)) = some r ∧ encode i &&& rowMask r = rowMatch r

/-- The operand bits of format `W(k)` (R102). -/
theorem getLsbD_operandBits_w (k i : Nat) (hk : k ≤ 24) : (operandBits (.w k)).getLsbD i = decide (i < k) := by
  simp only [operandBits, BitVec.getLsbD_ofNat, Nat.testBit_two_pow_sub_one]
  rw [Bool.eq_iff_iff]; simp only [Bool.and_eq_true, decide_eq_true_eq]; omega

/-- The operand bits of format `XB(j)` (R102). -/
theorem getLsbD_operandBits_xb (j i : Nat) (hj : j ≤ 16) : (operandBits (.xb j)).getLsbD i = decide (i < 8 + j) := by
  simp only [operandBits, BitVec.getLsbD_ofNat, Nat.testBit_two_pow_sub_one]
  rw [Bool.eq_iff_iff]; simp only [Bool.and_eq_true, decide_eq_true_eq]; omega

/-- The operand bits of format `X(j)` (R102). -/
theorem getLsbD_operandBits_x (j i : Nat) (hj : j ≤ 16) :
    (operandBits (.x j)).getLsbD i = decide (8 ≤ i ∧ i < 8 + j) := by
  simp only [operandBits, BitVec.getLsbD_ofNat, Nat.testBit_mul_two_pow, Nat.testBit_two_pow_sub_one]
  rw [Bool.eq_iff_iff]; simp only [Bool.and_eq_true, decide_eq_true_eq]; omega

/-- An argument of format `W(k)` leaves the reserved bits 0. -/
theorem encW_reserved {k : Nat} (v : BitVec k) (hk : k ≤ 24) : encW v &&& ~~~(operandBits (.w k)) = 0#24 := by
  apply BitVec.eq_of_getLsbD_eq
  intro i hi
  simp only [encW, BitVec.getLsbD_and, BitVec.getLsbD_setWidth, BitVec.getLsbD_not, getLsbD_operandBits_w k i hk]
  by_cases h : i < k
  · simp [h]
  · simp [BitVec.getLsbD_of_ge v i (by omega)]

/-- An argument of format `XB(j)` leaves the reserved bits 0. -/
theorem encXB_reserved {j : Nat} (x : BitVec j) (b : Byte) (hj : j ≤ 16) :
    encXB x b &&& ~~~(operandBits (.xb j)) = 0#24 := by
  apply BitVec.eq_of_getLsbD_eq
  intro i hi
  simp only [encXB, BitVec.getLsbD_and, BitVec.getLsbD_setWidth, BitVec.getLsbD_not, getLsbD_operandBits_xb j i hj]
  by_cases h : i < 8 + j
  · simp [h]
  · simp [BitVec.getLsbD_of_ge (x ++ b) i (by omega)]

/-- An argument of format `X(j)` leaves the reserved bits 0. -/
theorem encX_reserved {j : Nat} (x : BitVec j) (hj : j ≤ 16) : encX x &&& ~~~(operandBits (.x j)) = 0#24 := by
  apply BitVec.eq_of_getLsbD_eq
  intro i hi
  simp only [encX, BitVec.getLsbD_and, BitVec.getLsbD_setWidth, BitVec.getLsbD_not, getLsbD_operandBits_x j i hj,
    BitVec.getLsbD_append]
  by_cases h8 : i < 8
  · simp [h8]
  · by_cases h : i < 8 + j
    · simp [h, Nat.not_lt.mp h8]
    · simp [BitVec.getLsbD_of_ge x (i - 8) (by omega), h8]

/-- The opcode byte of a word made of an opcode byte and an argument (R101). -/
theorem opByte_commandWord (op : BitVec 8) (arg : BitVec 24) : opByte (commandWord op arg) = op := by
  apply BitVec.eq_of_getLsbD_eq
  intro i hi
  simp only [opByte, commandWord, BitVec.getLsbD_extractLsb', BitVec.getLsbD_append]
  simp [hi]

/-- The argument field of a word made of an opcode byte and an argument (R101). -/
theorem argField_commandWord (op : BitVec 8) (arg : BitVec 24) : argField (commandWord op arg) = arg := by
  apply BitVec.eq_of_getLsbD_eq
  intro i hi
  simp only [argField, commandWord, BitVec.getLsbD_extractLsb', BitVec.getLsbD_append]
  simp [hi]

/-- A word whose argument leaves its row's reserved bits 0 is selected by that row (R104). -/
theorem commandWord_selected {arg : BitVec 24} (r : Row) (hrow : rowOf r.op = some r)
    (harg : arg &&& ~~~(operandBits r.format) = 0#24) :
    ∃ r', rowOf (opByte (commandWord r.op arg)) = some r' ∧ commandWord r.op arg &&& rowMask r' = rowMatch r' := by
  refine ⟨r, by rw [opByte_commandWord, hrow], ?_⟩
  apply BitVec.eq_of_getLsbD_eq
  intro i hi
  have h := congrArg (fun v => v.getLsbD i) harg
  simp only [BitVec.getLsbD_and, BitVec.getLsbD_not, BitVec.getLsbD_zero] at h
  simp only [commandWord, rowMask, rowMatch, BitVec.getLsbD_and, BitVec.getLsbD_append]
  by_cases h24 : i < 24
  · simpa [h24] using h
  · have : (0xFF#8).getLsbD (i - 24) = true := by
      have hlt : i - 24 < 8 := by omega
      rw [show (0xFF#8) = BitVec.allOnes 8 from rfl, BitVec.getLsbD_allOnes, decide_eq_true hlt]
    simp [h24, this]

theorem EncodesIntoItsRow.nop : EncodesIntoItsRow.Statement (.nop) :=
  commandWord_selected ⟨0x00, .z, fun _ => .nop⟩ rfl rfl

theorem EncodesIntoItsRow.status : EncodesIntoItsRow.Statement (.status) :=
  commandWord_selected ⟨0x01, .z, fun _ => .status⟩ rfl rfl

theorem EncodesIntoItsRow.reset : EncodesIntoItsRow.Statement (.reset) :=
  commandWord_selected ⟨0x02, .z, fun _ => .reset⟩ rfl rfl

theorem EncodesIntoItsRow.crc9Clr : EncodesIntoItsRow.Statement (.crc9Clr) :=
  commandWord_selected ⟨0x10, .z, fun _ => .crc9Clr⟩ rfl rfl

theorem EncodesIntoItsRow.crc9Feed (n : BitVec 4) (b : Byte) : EncodesIntoItsRow.Statement (.crc9Feed n b) :=
  commandWord_selected ⟨0x11, .xb 4, fun a => .crc9Feed (argX 4 a) (argB a)⟩ rfl (encXB_reserved n b (by decide))

theorem EncodesIntoItsRow.crc9Fin : EncodesIntoItsRow.Statement (.crc9Fin) :=
  commandWord_selected ⟨0x12, .z, fun _ => .crc9Fin⟩ rfl rfl

theorem EncodesIntoItsRow.crc9Rd : EncodesIntoItsRow.Statement (.crc9Rd) :=
  commandWord_selected ⟨0x13, .z, fun _ => .crc9Rd⟩ rfl rfl

theorem EncodesIntoItsRow.crc16Clr : EncodesIntoItsRow.Statement (.crc16Clr) :=
  commandWord_selected ⟨0x20, .z, fun _ => .crc16Clr⟩ rfl rfl

theorem EncodesIntoItsRow.crc16Feed (b : Byte) : EncodesIntoItsRow.Statement (.crc16Feed b) :=
  commandWord_selected ⟨0x21, .w 8, fun a => .crc16Feed (argW 8 a)⟩ rfl (encW_reserved b (by decide))

theorem EncodesIntoItsRow.crc16Fin : EncodesIntoItsRow.Statement (.crc16Fin) :=
  commandWord_selected ⟨0x22, .z, fun _ => .crc16Fin⟩ rfl rfl

theorem EncodesIntoItsRow.crc16Rd : EncodesIntoItsRow.Statement (.crc16Rd) :=
  commandWord_selected ⟨0x23, .z, fun _ => .crc16Rd⟩ rfl rfl

theorem EncodesIntoItsRow.crc32Clr : EncodesIntoItsRow.Statement (.crc32Clr) :=
  commandWord_selected ⟨0x30, .z, fun _ => .crc32Clr⟩ rfl rfl

theorem EncodesIntoItsRow.crc32Feed (b : Byte) : EncodesIntoItsRow.Statement (.crc32Feed b) :=
  commandWord_selected ⟨0x31, .w 8, fun a => .crc32Feed (argW 8 a)⟩ rfl (encW_reserved b (by decide))

theorem EncodesIntoItsRow.crc32Fin : EncodesIntoItsRow.Statement (.crc32Fin) :=
  commandWord_selected ⟨0x32, .z, fun _ => .crc32Fin⟩ rfl rfl

theorem EncodesIntoItsRow.crc32Rd : EncodesIntoItsRow.Statement (.crc32Rd) :=
  commandWord_selected ⟨0x33, .z, fun _ => .crc32Rd⟩ rfl rfl

theorem EncodesIntoItsRow.crc16tClr : EncodesIntoItsRow.Statement (.crc16tClr) :=
  commandWord_selected ⟨0x40, .z, fun _ => .crc16tClr⟩ rfl rfl

theorem EncodesIntoItsRow.crc16tFeed (b : Byte) : EncodesIntoItsRow.Statement (.crc16tFeed b) :=
  commandWord_selected ⟨0x41, .w 8, fun a => .crc16tFeed (argW 8 a)⟩ rfl (encW_reserved b (by decide))

theorem EncodesIntoItsRow.crc16tRd : EncodesIntoItsRow.Statement (.crc16tRd) :=
  commandWord_selected ⟨0x43, .z, fun _ => .crc16tRd⟩ rfl rfl

theorem EncodesIntoItsRow.crc16tSet (v : BitVec 16) : EncodesIntoItsRow.Statement (.crc16tSet v) :=
  commandWord_selected ⟨0x44, .w 16, fun a => .crc16tSet (argW 16 a)⟩ rfl (encW_reserved v (by decide))

theorem EncodesIntoItsRow.crc16tTab (i : Byte) : EncodesIntoItsRow.Statement (.crc16tTab i) :=
  commandWord_selected ⟨0x45, .w 8, fun a => .crc16tTab (argW 8 a)⟩ rfl (encW_reserved i (by decide))

theorem EncodesIntoItsRow.h15Par (d : BitVec 11) : EncodesIntoItsRow.Statement (.h15Par d) :=
  commandWord_selected ⟨0x50, .w 11, fun a => .h15Par (argW 11 a)⟩ rfl (encW_reserved d (by decide))

theorem EncodesIntoItsRow.h15Chk (w : BitVec 15) : EncodesIntoItsRow.Statement (.h15Chk w) :=
  commandWord_selected ⟨0x51, .w 15, fun a => .h15Chk (argW 15 a)⟩ rfl (encW_reserved w (by decide))

theorem EncodesIntoItsRow.h15Pos (s : BitVec 4) : EncodesIntoItsRow.Statement (.h15Pos s) :=
  commandWord_selected ⟨0x52, .w 4, fun a => .h15Pos (argW 4 a)⟩ rfl (encW_reserved s (by decide))

theorem EncodesIntoItsRow.h15Cor (w : BitVec 15) : EncodesIntoItsRow.Statement (.h15Cor w) :=
  commandWord_selected ⟨0x53, .w 15, fun a => .h15Cor (argW 15 a)⟩ rfl (encW_reserved w (by decide))

theorem EncodesIntoItsRow.h13Par (d : BitVec 9) : EncodesIntoItsRow.Statement (.h13Par d) :=
  commandWord_selected ⟨0x60, .w 9, fun a => .h13Par (argW 9 a)⟩ rfl (encW_reserved d (by decide))

theorem EncodesIntoItsRow.h13Chk (w : BitVec 13) : EncodesIntoItsRow.Statement (.h13Chk w) :=
  commandWord_selected ⟨0x61, .w 13, fun a => .h13Chk (argW 13 a)⟩ rfl (encW_reserved w (by decide))

theorem EncodesIntoItsRow.h13Pos (s : BitVec 4) : EncodesIntoItsRow.Statement (.h13Pos s) :=
  commandWord_selected ⟨0x62, .w 4, fun a => .h13Pos (argW 4 a)⟩ rfl (encW_reserved s (by decide))

theorem EncodesIntoItsRow.h13Cor (w : BitVec 13) : EncodesIntoItsRow.Statement (.h13Cor w) :=
  commandWord_selected ⟨0x63, .w 13, fun a => .h13Cor (argW 13 a)⟩ rfl (encW_reserved w (by decide))

theorem EncodesIntoItsRow.h16Par (d : BitVec 11) : EncodesIntoItsRow.Statement (.h16Par d) :=
  commandWord_selected ⟨0x70, .w 11, fun a => .h16Par (argW 11 a)⟩ rfl (encW_reserved d (by decide))

theorem EncodesIntoItsRow.h16Chk (w : BitVec 16) : EncodesIntoItsRow.Statement (.h16Chk w) :=
  commandWord_selected ⟨0x71, .w 16, fun a => .h16Chk (argW 16 a)⟩ rfl (encW_reserved w (by decide))

theorem EncodesIntoItsRow.h16Pos (s : BitVec 5) : EncodesIntoItsRow.Statement (.h16Pos s) :=
  commandWord_selected ⟨0x72, .w 5, fun a => .h16Pos (argW 5 a)⟩ rfl (encW_reserved s (by decide))

theorem EncodesIntoItsRow.h16Cor (w : BitVec 16) : EncodesIntoItsRow.Statement (.h16Cor w) :=
  commandWord_selected ⟨0x73, .w 16, fun a => .h16Cor (argW 16 a)⟩ rfl (encW_reserved w (by decide))

theorem EncodesIntoItsRow.golayPar (d : BitVec 8) : EncodesIntoItsRow.Statement (.golayPar d) :=
  commandWord_selected ⟨0x80, .w 8, fun a => .golayPar (argW 8 a)⟩ rfl (encW_reserved d (by decide))

theorem EncodesIntoItsRow.golayChk (w : BitVec 20) : EncodesIntoItsRow.Statement (.golayChk w) :=
  commandWord_selected ⟨0x81, .w 20, fun a => .golayChk (argW 20 a)⟩ rfl (encW_reserved w (by decide))

theorem EncodesIntoItsRow.qrPar (d : BitVec 7) : EncodesIntoItsRow.Statement (.qrPar d) :=
  commandWord_selected ⟨0x90, .w 7, fun a => .qrPar (argW 7 a)⟩ rfl (encW_reserved d (by decide))

theorem EncodesIntoItsRow.qrChk (w : BitVec 16) : EncodesIntoItsRow.Statement (.qrChk w) :=
  commandWord_selected ⟨0x91, .w 16, fun a => .qrChk (argW 16 a)⟩ rfl (encW_reserved w (by decide))

theorem EncodesIntoItsRow.qrEnc (d : BitVec 7) : EncodesIntoItsRow.Statement (.qrEnc d) :=
  commandWord_selected ⟨0x92, .w 7, fun a => .qrEnc (argW 7 a)⟩ rfl (encW_reserved d (by decide))

theorem EncodesIntoItsRow.rsLd (i : BitVec 4) (b : Byte) : EncodesIntoItsRow.Statement (.rsLd i b) :=
  commandWord_selected ⟨0xA0, .xb 4, fun a => .rsLd (argX 4 a) (argB a)⟩ rfl (encXB_reserved i b (by decide))

theorem EncodesIntoItsRow.rsRd (i : BitVec 4) : EncodesIntoItsRow.Statement (.rsRd i) :=
  commandWord_selected ⟨0xA1, .x 4, fun a => .rsRd (argX 4 a)⟩ rfl (encX_reserved i (by decide))

theorem EncodesIntoItsRow.rsEnc : EncodesIntoItsRow.Statement (.rsEnc) :=
  commandWord_selected ⟨0xA2, .z, fun _ => .rsEnc⟩ rfl rfl

theorem EncodesIntoItsRow.rsSyn : EncodesIntoItsRow.Statement (.rsSyn) :=
  commandWord_selected ⟨0xA3, .z, fun _ => .rsSyn⟩ rfl rfl

theorem EncodesIntoItsRow.rsDec : EncodesIntoItsRow.Statement (.rsDec) :=
  commandWord_selected ⟨0xA4, .z, fun _ => .rsDec⟩ rfl rfl

theorem EncodesIntoItsRow.rsMul (a b : Byte) : EncodesIntoItsRow.Statement (.rsMul a b) :=
  commandWord_selected ⟨0xA5, .xb 8, fun a => .rsMul (argX 8 a) (argB a)⟩ rfl (encXB_reserved a b (by decide))

theorem EncodesIntoItsRow.rsExp (i : Byte) : EncodesIntoItsRow.Statement (.rsExp i) :=
  commandWord_selected ⟨0xA6, .w 8, fun a => .rsExp (argW 8 a)⟩ rfl (encW_reserved i (by decide))

theorem EncodesIntoItsRow.rsLog (v : Byte) : EncodesIntoItsRow.Statement (.rsLog v) :=
  commandWord_selected ⟨0xA7, .w 8, fun a => .rsLog (argW 8 a)⟩ rfl (encW_reserved v (by decide))

theorem EncodesIntoItsRow.inLdb (i : BitVec 5) (b : Byte) : EncodesIntoItsRow.Statement (.inLdb i b) :=
  commandWord_selected ⟨0xB0, .xb 5, fun a => .inLdb (argX 5 a) (argB a)⟩ rfl (encXB_reserved i b (by decide))

theorem EncodesIntoItsRow.inRdb (i : BitVec 5) : EncodesIntoItsRow.Statement (.inRdb i) :=
  commandWord_selected ⟨0xB1, .x 5, fun a => .inRdb (argX 5 a)⟩ rfl (encX_reserved i (by decide))

theorem EncodesIntoItsRow.mxLdb (i : BitVec 5) (b : Byte) : EncodesIntoItsRow.Statement (.mxLdb i b) :=
  commandWord_selected ⟨0xB2, .xb 5, fun a => .mxLdb (argX 5 a) (argB a)⟩ rfl (encXB_reserved i b (by decide))

theorem EncodesIntoItsRow.mxRdb (i : BitVec 5) : EncodesIntoItsRow.Statement (.mxRdb i) :=
  commandWord_selected ⟨0xB3, .x 5, fun a => .mxRdb (argX 5 a)⟩ rfl (encX_reserved i (by decide))

theorem EncodesIntoItsRow.datLdb (i : BitVec 4) (b : Byte) : EncodesIntoItsRow.Statement (.datLdb i b) :=
  commandWord_selected ⟨0xB4, .xb 4, fun a => .datLdb (argX 4 a) (argB a)⟩ rfl (encXB_reserved i b (by decide))

theorem EncodesIntoItsRow.datRdb (i : BitVec 4) : EncodesIntoItsRow.Statement (.datRdb i) :=
  commandWord_selected ⟨0xB5, .x 4, fun a => .datRdb (argX 4 a)⟩ rfl (encX_reserved i (by decide))

theorem EncodesIntoItsRow.bptcDeint : EncodesIntoItsRow.Statement (.bptcDeint) :=
  commandWord_selected ⟨0xB6, .z, fun _ => .bptcDeint⟩ rfl rfl

theorem EncodesIntoItsRow.bptcRepair : EncodesIntoItsRow.Statement (.bptcRepair) :=
  commandWord_selected ⟨0xB7, .z, fun _ => .bptcRepair⟩ rfl rfl

theorem EncodesIntoItsRow.bptcExtract : EncodesIntoItsRow.Statement (.bptcExtract) :=
  commandWord_selected ⟨0xB8, .z, fun _ => .bptcExtract⟩ rfl rfl

theorem EncodesIntoItsRow.bptcEnc : EncodesIntoItsRow.Statement (.bptcEnc) :=
  commandWord_selected ⟨0xB9, .z, fun _ => .bptcEnc⟩ rfl rfl

theorem EncodesIntoItsRow.bptcInt : EncodesIntoItsRow.Statement (.bptcInt) :=
  commandWord_selected ⟨0xBA, .z, fun _ => .bptcInt⟩ rfl rfl

theorem EncodesIntoItsRow.bptcDm (a : Byte) : EncodesIntoItsRow.Statement (.bptcDm a) :=
  commandWord_selected ⟨0xBB, .w 8, fun a => .bptcDm (argW 8 a)⟩ rfl (encW_reserved a (by decide))

end Sys2Proof.Laws
end

