-- ==== Sys2Proof/Laws/State.lean ====
section
/-! SUPPORT. One lemma per field per update of the state: the shared operations of Machine/Ops.lean and Machine/Flags.lean,
each said once. -/

namespace Sys2Proof.Machine

section StateOps
variable (s : State) (b : Block) (v : Word) (c : IllegalCode) (w : Word)

@[simp] theorem State.pinReset_block : s.pinReset.block = Block.reset := rfl
@[simp] theorem State.pinReset_inputs : s.pinReset.inputs = s.inputs := rfl
@[simp] theorem State.pinReset_out : s.pinReset.out = none := rfl
@[simp] theorem State.idle_block : s.idle.block = s.block := rfl
@[simp] theorem State.idle_inputs : s.idle.inputs = s.inputs := rfl
@[simp] theorem State.idle_out : s.idle.out = none := rfl
@[simp] theorem State.present_block : (s.present w).block = s.block := rfl
@[simp] theorem State.present_inputs : (s.present w).inputs = { rst := false, cmd := some w } :: s.inputs := rfl
@[simp] theorem State.present_out : (s.present w).out = s.out := rfl

/-- All that answering a legal command does. -/
theorem State.reply_next_iff (t : State) :
    s.reply b v = .next t ↔ t = { s with block := b, out := some { rsp := v, err := false } } := by
  constructor
  · intro h; cases h; rfl
  · rintro rfl; rfl

/-- All that raising `IllegalCommand` does. -/
theorem State.raiseIllegal_next_iff (t : State) :
    s.raiseIllegal c = .next t ↔
      t = { s with
        block := { s.block with status := recordIllegal s.block.status c }
        out := some { rsp := 0, err := true } } := by
  constructor
  · intro h; cases h; rfl
  · rintro rfl; rfl

/-- What is accepted where the host presents nothing more. -/
theorem State.accept_nil (h : s.inputs = []) : s.accept = (none, s.idle) := by
  simp [State.accept, State.acceptWith, h]

/-- What is accepted where the reset pin is asserted: nothing, whatever is presented with it. -/
theorem State.accept_rst {rest : List PortInput} {cmd : Option Word} (h : s.inputs = { rst := true, cmd := cmd } :: rest) :
    s.accept = (none, State.pinReset { s with inputs := rest }) := by
  simp [State.accept, State.acceptWith, State.pinReset, h]

/-- What is accepted where the pin is not asserted and no command is presented. -/
theorem State.accept_wait {rest : List PortInput} (h : s.inputs = { rst := false, cmd := none } :: rest) :
    s.accept = (none, State.idle { s with inputs := rest }) := by
  simp [State.accept, State.acceptWith, h]

/-- What is accepted where a command is presented. -/
theorem State.accept_command {rest : List PortInput} (h : s.inputs = { rst := false, cmd := some w } :: rest) :
    s.accept = (some w, { s with inputs := rest }) := by
  simp [State.accept, State.acceptWith, h]

end StateOps

section StatusOps
variable (r : Status) (c : IllegalCode) (cat : Category) (pos cnt : Nat)

@[simp] theorem recordIllegal_fault : (recordIllegal r c).fault = true := rfl
@[simp] theorem recordIllegal_ecode :
    (recordIllegal r c).ecode = if r.fault then r.ecode else causeCode c := rfl
@[simp] theorem recordIllegal_st : (recordIllegal r c).st = r.st := rfl
@[simp] theorem recordIllegal_pos : (recordIllegal r c).pos = r.pos := rfl
@[simp] theorem recordIllegal_cnt : (recordIllegal r c).cnt = r.cnt := rfl
@[simp] theorem recordResult_fault : (recordResult r cat pos cnt).fault = r.fault := rfl
@[simp] theorem recordResult_ecode : (recordResult r cat pos cnt).ecode = r.ecode := rfl
@[simp] theorem recordResult_st : (recordResult r cat pos cnt).st = categoryCode cat := rfl
@[simp] theorem recordResult_pos : (recordResult r cat pos cnt).pos = BitVec.ofNat 8 pos := rfl
@[simp] theorem recordResult_cnt : (recordResult r cat pos cnt).cnt = BitVec.ofNat 8 cnt := rfl

@[simp] theorem categoryCode_clean : categoryCode .clean = 0 := rfl
@[simp] theorem categoryCode_corrected : categoryCode .corrected = 1 := rfl
@[simp] theorem categoryCode_uncorrectable : categoryCode .uncorrectable = 2 := rfl
@[simp] theorem causeCode_unknownOpcode : causeCode .unknownOpcode = 1 := rfl
@[simp] theorem causeCode_reservedBits : causeCode .reservedBits = 2 := rfl
@[simp] theorem causeCode_operandRange : causeCode .operandRange = 3 := rfl
@[simp] theorem correctionCount_clean : correctionCount .clean = 0 := rfl
@[simp] theorem correctionCount_corrected : correctionCount .corrected = 1 := rfl
@[simp] theorem correctionCount_uncorrectable : correctionCount .uncorrectable = 0 := rfl

/-- A category's code is never 3 (R12). -/
theorem categoryCode_ne_three : categoryCode cat ≠ 3 := by cases cat <;> decide

/-- A cause code is one of 1, 2, 3 (R381). -/
theorem causeCode_range : causeCode c ≠ 0 ∧ (causeCode c).toNat ≤ 3 := by cases c <;> decide

end StatusOps

end Sys2Proof.Machine
end

