-- ==== Sys2Proof/Laws/Units.lean ====
section
/-! SUPPORT. What the shared functions of the units do, said once each: the operand checks, the CRC recursions, the parity of a
generator, the correction, and the closed form of the permutation. -/

namespace Sys2Proof.Machine

/-- The legal bit counts, and the count itself. -/
theorem feedCount_eq_some {n : BitVec 4} {k : Nat} : feedCount n = some k ↔ k = n.toNat ∧ 1 ≤ k ∧ k ≤ 8 := by
  unfold feedCount
  split <;> simp <;> omega

/-- A bit count is refused exactly where it is not legal. -/
theorem feedCount_eq_none {n : BitVec 4} : feedCount n = none ↔ legalFeedCount n = false := by
  simp [feedCount, legalFeedCount]

/-- The legal indices of a space, and the index itself. -/
theorem spaceIndex_eq_some {k limit : Nat} {i : BitVec k} {j : Fin limit} :
    spaceIndex limit i = some j ↔ j.val = i.toNat := by
  unfold spaceIndex
  split
  · rw [Option.some.injEq, Fin.ext_iff]; exact eq_comm
  · rename_i h
    simp only [false_iff, reduceCtorEq]
    intro hj
    exact h (hj ▸ j.isLt)

/-- An index is refused exactly where it lies outside the space. -/
theorem spaceIndex_eq_none {k limit : Nat} {i : BitVec k} : spaceIndex limit i = none ↔ limit ≤ i.toNat := by
  unfold spaceIndex
  split <;> simp <;> omega

section Crc
variable {W : Nat} (P : BitVec W)

@[simp] theorem crcFeed_zero (b : Byte) (c : BitVec W) : crcFeed P b 0 c = c := rfl
theorem crcFeed_succ (b : Byte) (n : Nat) (c : BitVec W) :
    crcFeed P b (n + 1) c = crcFeed P b n (crcShift P c (b.getLsbD n)) := rfl
@[simp] theorem crcFin_zero (c : BitVec W) : crcFin P 0 c = c := rfl
theorem crcFin_succ (f : Nat) (c : BitVec W) : crcFin P (f + 1) c = crcFin P f (crcShift P c false) := rfl

end Crc

/-- A XOR-accumulating fold may start from its accumulator at the end. -/
theorem foldl_xor_rows {k m : Nat} (G : Vector (BitVec m) k) (d : BitVec k) (l : List (Fin k)) (p : BitVec m) :
    l.foldl (fun p (i : Fin k) => if bitAt d i.val then p ^^^ G[i] else p) p =
      p ^^^ l.foldl (fun p (i : Fin k) => if bitAt d i.val then p ^^^ G[i] else p) 0#m := by
  induction l generalizing p with
  | nil => simp
  | cons a l ih =>
    simp only [List.foldl_cons]
    rw [ih, ih (if bitAt d a.val then 0#m ^^^ G[a] else 0#m)]
    split <;> simp [BitVec.xor_assoc]

/-- Parity is linear over GF(2) in the data (R220). -/
theorem hamPar_xor {k m : Nat} (G : Vector (BitVec m) k) (a b : BitVec k) :
    hamPar G (a ^^^ b) = hamPar G a ^^^ hamPar G b := by
  unfold hamPar
  induction List.finRange k with
  | nil => simp
  | cons i l ih =>
    simp only [List.foldl_cons]
    rw [foldl_xor_rows, ih, foldl_xor_rows G a l (if bitAt a i.val then _ else _),
      foldl_xor_rows G b l (if bitAt b i.val then _ else _)]
    apply BitVec.eq_of_getLsbD_eq
    intro j _
    cases ha : bitAt a i.val <;> cases hb : bitAt b i.val <;> simp [ha, hb, Bool.xor_left_comm]

/-- All that `ham_cor` can answer (R221). -/
theorem hamCor_cases {k m : Nat} (G : Vector (BitVec m) k) (w : BitVec (k + m)) :
    (hamSyn G w = 0 ∧ hamCor G w = ⟨.clean, 0, w⟩) ∨
    (hamSyn G w ≠ 0 ∧ hamPos G (hamSyn G w) = none ∧ hamCor G w = ⟨.uncorrectable, 0, w⟩) ∨
    (∃ i, hamSyn G w ≠ 0 ∧ hamPos G (hamSyn G w) = some i ∧ hamCor G w = ⟨.corrected, i, flipBit w i⟩) := by
  unfold hamCor
  by_cases h : hamSyn G w = 0
  · exact .inl ⟨h, by simp [h]⟩
  · cases hp : hamPos G (hamSyn G w) with
    | none => exact .inr (.inl ⟨h, rfl, if_neg h⟩)
    | some i => exact .inr (.inr ⟨i, h, rfl, if_neg h⟩)

/-- All that the repair loop does with one check's result (R345). -/
theorem repairWith_cases (a : Repair) (cat : Category) (idx : Nat) :
    (cat = .clean ∧ repairWith a cat idx = a) ∨
    (cat = .corrected ∧ repairWith a cat idx = { a with mx := flipBit a.mx idx, cnt := a.cnt + 1, pos := idx }) ∨
    (cat = .uncorrectable ∧ repairWith a cat idx = { a with fatal := true }) := by
  cases cat <;> simp [repairWith]

/-- The entries of `ROM.DM` (R45). -/
theorem romDm_eq (a : Nat) : romDm params a = (a * 181) % 196 := rfl

/-- The inverse of 181 modulo 196 (R341). -/
theorem bptcInverse_eq : bptcInverse params = 13 := by decide +kernel

/-- Multiplication by 13 (R341). -/
theorem romDmInv_eq (j : Nat) : romDmInv params j = (j * 13) % 196 := by
  rw [romDmInv, bptcInverse_eq]; rfl

/-- Element `a` of a matrix made by `ofMatrix`: `MX[0]` is 0, and `MX[1 + 15r + c]` is `f r c` (R37). -/
theorem bitAt_ofMatrix (f : Nat → Nat → Bool) {r c : Nat} (hr : r ≤ 12) (hc : c ≤ 14) :
    bitAt (ofMatrix f) (mxIndex r c) = f r c := by
  have h : mxIndex r c < 196 := by unfold mxIndex; omega
  have h1 : (mxIndex r c - 1) / 15 = r := by unfold mxIndex; omega
  have h2 : (mxIndex r c - 1) % 15 = c := by unfold mxIndex; omega
  have h0 : 0 < mxIndex r c := by unfold mxIndex; omega
  simp [ofMatrix, h, h0, h1, h2]

/-- All that a decoding step of R306 can answer. -/
theorem rsDecode_cases (poly : BitVec 9) (cw : Vector Byte 12) :
    rsDecode poly cw = ⟨.clean, 0, 0, cw⟩ ∨ rsDecode poly cw = ⟨.uncorrectable, 0, 0, cw⟩ ∨
    ∃ (k : Nat) (_ : k ≤ 11) (e : Byte),
      rsDecode poly cw = ⟨.corrected, 11 - k, e, cw.set (11 - k) (cw[11 - k] ^^^ e)⟩ := by
  unfold rsDecode rsFail
  simp only
  split
  · exact .inl rfl
  · split
    · unfold rsCorrect
      split
      · rename_i h; exact .inr (.inr ⟨_, h, _, rfl⟩)
      · exact .inr (.inl rfl)
    · exact .inr (.inl rfl)

/-! ### Powers of `α` -/

theorem gfMul_zero_left (poly : BitVec 9) (b : Byte) : gfMul poly 0 b = 0 := by
  have h : gfProduct 0 b = 0 := by
    simp [gfProduct, List.range_succ]
  rw [gfMul, h]
  simp [gfReduce]

theorem gfPowFrom_zero_left (poly : BitVec 9) (n : Nat) : gfPowFrom poly 0 n = 0 := by cases n <;> simp [gfPowFrom]

theorem gfPowFrom_succ (poly : BitVec 9) (cur : Byte) (n : Nat) :
    gfPowFrom poly cur (n + 1) = gfMul poly (gfPowFrom poly cur n) 0x02 := by
  by_cases h : cur = 0
  · rw [h, gfPowFrom_zero_left, gfPowFrom_zero_left, gfMul_zero_left]
  induction n generalizing cur with
  | zero => exact if_neg h
  | succ n ih =>
    rw [gfPowFrom, if_neg h, gfPowFrom.eq_2 poly cur n, if_neg h]
    by_cases h' : gfMul poly cur 0x02 = 0
    · rw [h', gfPowFrom_zero_left, gfPowFrom_zero_left, gfMul_zero_left]
    · exact ih _ h'

@[simp] theorem gfPow_zero (poly : BitVec 9) : gfPow poly 0 = 0x01 := rfl

/-- R292: each entry of `ROM.EXP` is the one before it times `0x02`. -/
theorem gfPow_succ (poly : BitVec 9) (i : Nat) : gfPow poly (i + 1) = gfMul poly (gfPow poly i) 0x02 :=
  gfPowFrom_succ poly 0x01 i

end Sys2Proof.Machine
end

