-- ==== Sys2Proof/Machine/Assembly.lean ====
section
/-! DEFINITION. The written form of a command (`30_encoding.md` R121) and the pseudo-commands (R122). Neither has any effect
of its own: the block sees command words only. -/

namespace Sys2Proof.Machine

/-- The mnemonic of a command's row (R106). -/
def mnemonic : Instr → String
  | .nop => "NOP"
  | .status => "STATUS"
  | .reset => "RESET"
  | .crc9Clr => "CRC9.CLR"
  | .crc9Feed _ _ => "CRC9.FEED"
  | .crc9Fin => "CRC9.FIN"
  | .crc9Rd => "CRC9.RD"
  | .crc16Clr => "CRC16.CLR"
  | .crc16Feed _ => "CRC16.FEED"
  | .crc16Fin => "CRC16.FIN"
  | .crc16Rd => "CRC16.RD"
  | .crc32Clr => "CRC32.CLR"
  | .crc32Feed _ => "CRC32.FEED"
  | .crc32Fin => "CRC32.FIN"
  | .crc32Rd => "CRC32.RD"
  | .crc16tClr => "CRC16T.CLR"
  | .crc16tFeed _ => "CRC16T.FEED"
  | .crc16tRd => "CRC16T.RD"
  | .crc16tSet _ => "CRC16T.SET"
  | .crc16tTab _ => "CRC16T.TAB"
  | .h15Par _ => "H15.PAR"
  | .h15Chk _ => "H15.CHK"
  | .h15Pos _ => "H15.POS"
  | .h15Cor _ => "H15.COR"
  | .h13Par _ => "H13.PAR"
  | .h13Chk _ => "H13.CHK"
  | .h13Pos _ => "H13.POS"
  | .h13Cor _ => "H13.COR"
  | .h16Par _ => "H16.PAR"
  | .h16Chk _ => "H16.CHK"
  | .h16Pos _ => "H16.POS"
  | .h16Cor _ => "H16.COR"
  | .golayPar _ => "GOLAY.PAR"
  | .golayChk _ => "GOLAY.CHK"
  | .qrPar _ => "QR.PAR"
  | .qrChk _ => "QR.CHK"
  | .qrEnc _ => "QR.ENC"
  | .rsLd _ _ => "RS.LD"
  | .rsRd _ => "RS.RD"
  | .rsEnc => "RS.ENC"
  | .rsSyn => "RS.SYN"
  | .rsDec => "RS.DEC"
  | .rsMul _ _ => "RS.MUL"
  | .rsExp _ => "RS.EXP"
  | .rsLog _ => "RS.LOG"
  | .inLdb _ _ => "IN.LDB"
  | .inRdb _ => "IN.RDB"
  | .mxLdb _ _ => "MX.LDB"
  | .mxRdb _ => "MX.RDB"
  | .datLdb _ _ => "DAT.LDB"
  | .datRdb _ => "DAT.RDB"
  | .bptcDeint => "BPTC.DEINT"
  | .bptcRepair => "BPTC.REPAIR"
  | .bptcExtract => "BPTC.EXTRACT"
  | .bptcEnc => "BPTC.ENC"
  | .bptcInt => "BPTC.INT"
  | .bptcDm _ => "BPTC.DM"

/-- The operands of a command, in the order of its row (R106, R121). -/
def operandList : Instr → List Nat
  | .nop => []
  | .status => []
  | .reset => []
  | .crc9Clr => []
  | .crc9Feed n b => [n.toNat, b.toNat]
  | .crc9Fin => []
  | .crc9Rd => []
  | .crc16Clr => []
  | .crc16Feed b => [b.toNat]
  | .crc16Fin => []
  | .crc16Rd => []
  | .crc32Clr => []
  | .crc32Feed b => [b.toNat]
  | .crc32Fin => []
  | .crc32Rd => []
  | .crc16tClr => []
  | .crc16tFeed b => [b.toNat]
  | .crc16tRd => []
  | .crc16tSet v => [v.toNat]
  | .crc16tTab i => [i.toNat]
  | .h15Par d => [d.toNat]
  | .h15Chk w => [w.toNat]
  | .h15Pos s => [s.toNat]
  | .h15Cor w => [w.toNat]
  | .h13Par d => [d.toNat]
  | .h13Chk w => [w.toNat]
  | .h13Pos s => [s.toNat]
  | .h13Cor w => [w.toNat]
  | .h16Par d => [d.toNat]
  | .h16Chk w => [w.toNat]
  | .h16Pos s => [s.toNat]
  | .h16Cor w => [w.toNat]
  | .golayPar d => [d.toNat]
  | .golayChk w => [w.toNat]
  | .qrPar d => [d.toNat]
  | .qrChk w => [w.toNat]
  | .qrEnc d => [d.toNat]
  | .rsLd i b => [i.toNat, b.toNat]
  | .rsRd i => [i.toNat]
  | .rsEnc => []
  | .rsSyn => []
  | .rsDec => []
  | .rsMul a b => [a.toNat, b.toNat]
  | .rsExp i => [i.toNat]
  | .rsLog v => [v.toNat]
  | .inLdb i b => [i.toNat, b.toNat]
  | .inRdb i => [i.toNat]
  | .mxLdb i b => [i.toNat, b.toNat]
  | .mxRdb i => [i.toNat]
  | .datLdb i b => [i.toNat, b.toNat]
  | .datRdb i => [i.toNat]
  | .bptcDeint => []
  | .bptcRepair => []
  | .bptcExtract => []
  | .bptcEnc => []
  | .bptcInt => []
  | .bptcDm a => [a.toNat]

/-- The written form of a command: the mnemonic, then the operands separated by commas, in decimal (R121; assumption 17). -/
def written (i : Instr) : String :=
  match operandList i with
  | [] => mnemonic i
  | ops => mnemonic i ++ " " ++ ", ".intercalate (ops.map toString)

/-- `CRC9.FEEDB b` (R122). -/
def crc9Feedb (b : Byte) : List Instr := [.crc9Feed 8 b]

/-- `CRC9.SERIAL s`, for `s` in 0..127 (R122). -/
def crc9Serial (s : BitVec 7) : List Instr := [.crc9Feed 7 (s.setWidth 8)]

/-- `IN.LOAD b0 b1 ... b24` (R122). -/
def inLoad (bytes : Vector Byte 25) : List Instr :=
  bytes.toList.zipIdx.map (fun p => .inLdb (BitVec.ofNat 5 p.2) p.1)

/-- `DAT.LOAD b0 ... b11` (R122). -/
def datLoad (bytes : Vector Byte 12) : List Instr :=
  bytes.toList.zipIdx.map (fun p => .datLdb (BitVec.ofNat 4 p.2) p.1)

/-- `RS.LOAD b0 ... b11` (R122). -/
def rsLoad (bytes : Vector Byte 12) : List Instr :=
  bytes.toList.zipIdx.map (fun p => .rsLd (BitVec.ofNat 4 p.2) p.1)

/-- `BPTC.DECODE` (R122), the source's `decode_bptc`. -/
def bptcDecodeSeq : List Instr := [.bptcDeint, .bptcRepair, .bptcExtract]

/-- `BPTC.ENCODE` (R122), the source's `encode_bptc`. -/
def bptcEncodeSeq : List Instr := [.bptcEnc, .bptcInt]

end Sys2Proof.Machine
end

