-- ==== Sys2Proof/Tests/Slice0.lean ====
section
/-! SUPPORT. The model's own tests. Expected values are the spec's: the printed encodings of `30_encoding.md` R106, the examples
of the commands' rules and the vectors of `95_test_vectors.md`. The last part gives, for each statement with hypotheses, a
concrete state and operands that meet them. -/

namespace Sys2Proof.Tests

open Sys2Proof Sys2Proof.Machine

set_option Elab.async false

/-- The response to a command word presented alone to a block. -/
def answer (b : Block) (w : Word) : Option Response :=
  match step (State.present { State.reset with block := b } w) with
  | .next t => t.out
  | .fault _ => none
  | .refused _ => none

/-- The block after a command word presented alone. -/
def after (b : Block) (w : Word) : Block :=
  match step (State.present { State.reset with block := b } w) with
  | .next t => t.block
  | .fault _ => b
  | .refused _ => b

/-- A response of a legal command. -/
def ok (rsp : Word) : Option Response := some { rsp := rsp, err := false }

/-- The response to an illegal command. -/
def err : Option Response := some { rsp := 0, err := true }

/-! ### WellFormed: each check refuses an ill-formed command and admits the edges of its range -/

theorem test_wf_feedCount : Instr.wellFormed (.crc9Feed 0 0xFF) = false ∧ Instr.wellFormed (.crc9Feed 9 0) = false ∧
    Instr.wellFormed (.crc9Feed 1 0) = true ∧ Instr.wellFormed (.crc9Feed 8 0xFF) = true := by decide
theorem test_wf_rs : Instr.wellFormed (.rsLd 12 0) = false ∧ Instr.wellFormed (.rsRd 12) = false ∧
    Instr.wellFormed (.rsLd 11 0) = true ∧ Instr.wellFormed (.rsRd 0) = true := by decide
theorem test_wf_dat : Instr.wellFormed (.datLdb 15 0) = false ∧ Instr.wellFormed (.datRdb 12) = false ∧
    Instr.wellFormed (.datLdb 11 0) = true ∧ Instr.wellFormed (.datRdb 11) = true := by decide
theorem test_wf_in : Instr.wellFormed (.inLdb 25 0) = false ∧ Instr.wellFormed (.inRdb 31) = false ∧
    Instr.wellFormed (.inLdb 24 0) = true ∧ Instr.wellFormed (.inRdb 24) = true := by decide
theorem test_wf_mx : Instr.wellFormed (.mxLdb 25 0) = false ∧ Instr.wellFormed (.mxRdb 25) = false ∧
    Instr.wellFormed (.mxLdb 24 0) = true ∧ Instr.wellFormed (.mxRdb 24) = true := by decide
theorem test_wf_dm : Instr.wellFormed (.bptcDm 196) = false ∧ Instr.wellFormed (.bptcDm 195) = true := by decide

/-! ### Decoding: every row's word, written out from R106 -/

/-- The decoder's rows carry the `match` and `mask` that R106 prints. -/
theorem test_rows_are_the_printed_rows : rows.map (fun r => (rowMatch r, rowMask r)) = printedRows := by decide +kernel

theorem test_decode_sys : [0x00000000, 0x01000000, 0x02000000].map (fun w => (decode w).toOption) =
    [some (.nop), some (.status), some (.reset)] := by
  decide +kernel

theorem test_decode_crc9 : [0x10000000, 0x11000868, 0x12000000, 0x13000000].map (fun w => (decode w).toOption) =
    [some (.crc9Clr), some (.crc9Feed 8 0x68), some (.crc9Fin), some (.crc9Rd)] := by
  decide +kernel

theorem test_decode_crc16 : [0x20000000, 0x21000080, 0x22000000, 0x23000000].map (fun w => (decode w).toOption) =
    [some (.crc16Clr), some (.crc16Feed 0x80), some (.crc16Fin), some (.crc16Rd)] := by
  decide +kernel

theorem test_decode_crc32 : [0x30000000, 0x31000001, 0x32000000, 0x33000000].map (fun w => (decode w).toOption) =
    [some (.crc32Clr), some (.crc32Feed 0x01), some (.crc32Fin), some (.crc32Rd)] := by
  decide +kernel

theorem test_decode_crc16t : [0x40000000, 0x41000001, 0x43000000, 0x4400FFFF, 0x45000080].map (fun w => (decode w).toOption) =
    [some (.crc16tClr), some (.crc16tFeed 0x01), some (.crc16tRd), some (.crc16tSet 0xFFFF), some (.crc16tTab 0x80)] := by
  decide +kernel

theorem test_decode_h15 : [0x500005A5, 0x5100585D, 0x5200000A, 0x53003A5D].map (fun w => (decode w).toOption) =
    [some (.h15Par 0x5A5), some (.h15Chk 0x585D), some (.h15Pos 0xA), some (.h15Cor 0x3A5D)] := by
  decide +kernel

theorem test_decode_h13 : [0x600001A5, 0x61001AD4, 0x62000009, 0x63000A74].map (fun w => (decode w).toOption) =
    [some (.h13Par 0x1A5), some (.h13Chk 0x1AD4), some (.h13Pos 0x9), some (.h13Cor 0x0A74)] := by
  decide +kernel

theorem test_decode_h16 : [0x700005A5, 0x7100B0BB, 0x72000015, 0x730074BB].map (fun w => (decode w).toOption) =
    [some (.h16Par 0x5A5), some (.h16Chk 0xB0BB), some (.h16Pos 0x15), some (.h16Cor 0x74BB)] := by
  decide +kernel

theorem test_decode_golay_qr : [0x80000013, 0x810932B2, 0x90000013, 0x9100A721, 0x92000013].map (fun w => (decode w).toOption) =
    [some (.golayPar 0x13), some (.golayChk 0x932B2), some (.qrPar 0x13), some (.qrChk 0xA721), some (.qrEnc 0x13)] := by
  decide +kernel

theorem test_decode_rs : [0xA00004A5, 0xA1000B00, 0xA2000000, 0xA3000000, 0xA4000000, 0xA5000E38, 0xA60000FE, 0xA700001D].map (fun w => (decode w).toOption) =
    [some (.rsLd 4 0xA5), some (.rsRd 11), some (.rsEnc), some (.rsSyn), some (.rsDec), some (.rsMul 0x0E 0x38), some (.rsExp 254), some (.rsLog 0x1D)] := by
  decide +kernel

theorem test_decode_buffers : [0xB00018FF, 0xB1001800, 0xB2000008, 0xB3001800, 0xB4000B7E, 0xB5000B00].map (fun w => (decode w).toOption) =
    [some (.inLdb 24 0xFF), some (.inRdb 24), some (.mxLdb 0 0x08), some (.mxRdb 24), some (.datLdb 11 0x7E), some (.datRdb 11)] := by
  decide +kernel

theorem test_decode_bptc : [0xB6000000, 0xB7000000, 0xB8000000, 0xB9000000, 0xBA000000, 0xBB0000C3].map (fun w => (decode w).toOption) =
    [some (.bptcDeint), some (.bptcRepair), some (.bptcExtract), some (.bptcEnc), some (.bptcInt), some (.bptcDm 195)] := by
  decide +kernel

/-- V7: unknown opcodes, reserved bits, ranges, in that order of precedence. -/
theorem test_classify_illegal :
    ([0x03000000, 0x42000000, 0xC0000000, 0xFFFFFFFF] : List Word).all
      (fun w => match classify w with | .error .unknownOpcode => true | _ => false) ∧
    ([0x00000001, 0x01800000, 0x11001068, 0x52000010, 0xA1000C01, 0xBB0001C4] : List Word).all
      (fun w => match classify w with | .error .reservedBits => true | _ => false) ∧
    ([0x11000068, 0x11000968, 0xA1000C00, 0xB0001900, 0xB4000C00, 0xBB0000C4] : List Word).all
      (fun w => match classify w with | .error .operandRange => true | _ => false) := by decide +kernel

theorem test_written : written (.crc9Feed 8 0x68) = "CRC9.FEED 8, 104" ∧ written .nop = "NOP" := by decide +kernel
theorem test_pseudo_serial : crc9Serial 0x7F = [.crc9Feed 7 0x7F] := by decide +kernel

/-! ### One step of each command -/

/-- A block with every element away from its reset value: the buffers of S1, the code word of V5.2, and a fault recorded. -/
def busy : Block where
  crc9 := 0x100
  crc16 := 0x8000
  crc32 := 0x00000001
  crc16t := 0x1189
  inBuf := 0x4BB21D6D82D423340EE966F3C220C387FD8454124DB2D1407#196
  mx := 0x0BD5009800031F5296C61E12CBA46067ED275A846FBD775A4#196
  dat := 0xBD0080031F29661F2CA4667E#96
  rs := #v[0x00, 0x00, 0x10, 0x00, 0x00, 0x01, 0x00, 0x00, 0x02, 0x16, 0x97, 0xBC]
  status := { st := 1, cnt := 1, pos := 5, ecode := 2, fault := true }

/-- `STATUS` with these result fields and the fault record of `busy`. -/
def result (st : BitVec 2) (cnt pos : BitVec 8) : Status := { busy.status with st := st, cnt := cnt, pos := pos }

theorem test_nop :
    answer busy 0x00000000 = ok 0 ∧
    after busy 0x00000000 = busy := by decide +kernel

/-- R40: `ST` 1, `CNT` 1, `POS` 5, `ECODE` 2, `FAULT` 1. -/
theorem test_status :
    answer busy 0x01000000 = ok 0x40010505 ∧
    after busy 0x01000000 = busy := by decide +kernel

theorem test_reset :
    answer busy 0x02000000 = ok 0 ∧ after busy 0x02000000 = Block.reset := by decide +kernel

theorem test_crc9_clr :
    answer busy 0x10000000 = ok 0 ∧
    after busy 0x10000000 = { busy with crc9 := 0 } := by decide +kernel

/-- V2: top bit out, polynomial in. -/
theorem test_crc9_feed :
    answer busy 0x11000101 = ok 0 ∧
    after busy 0x11000101 = { busy with crc9 := 0x058 } := by decide +kernel

/-- V2: bit 7 of the byte ignored. -/
theorem test_crc9_feed_seven :
    (after Block.reset 0x110007FF).crc9 = 0x07F := by decide +kernel

theorem test_crc9_fin :
    (after { busy with crc9 := 0x1FF } 0x12000000).crc9 = 0x16F ∧ (after { busy with crc9 := 0x048 } 0x12000000).crc9 = 0x179 := by decide +kernel

theorem test_crc9_rd :
    answer busy 0x13000000 = ok 0x100 ∧
    after busy 0x13000000 = busy := by decide +kernel

theorem test_crc16_clr :
    answer busy 0x20000000 = ok 0 ∧
    after busy 0x20000000 = { busy with crc16 := 0 } := by decide +kernel

theorem test_crc16_feed :
    answer busy 0x21000000 = ok 0 ∧
    after busy 0x21000000 = { busy with crc16 := 0x9188 } := by decide +kernel

theorem test_crc16_fin :
    (after { busy with crc16 := 0x9E00 } 0x22000000).crc16 = 0x3BE4 ∧ (after { busy with crc16 := 1 } 0x22000000).crc16 = 0x1021 := by decide +kernel

theorem test_crc16_rd :
    answer busy 0x23000000 = ok 0x8000 ∧
    after busy 0x23000000 = busy := by decide +kernel

theorem test_crc32_clr :
    answer busy 0x30000000 = ok 0 ∧
    after busy 0x30000000 = { busy with crc32 := 0 } := by decide +kernel

theorem test_crc32_feed :
    answer busy 0x31000001 = ok 0 ∧
    after busy 0x31000001 = { busy with crc32 := 0x00000101 } := by decide +kernel

/-- S4. -/
theorem test_crc32_fin :
    answer busy 0x32000000 = ok 0 ∧
    after busy 0x32000000 = { busy with crc32 := 0x04C11DB7 } := by decide +kernel

/-- S4. -/
theorem test_crc32_fin_hello :
    (after { busy with crc32 := 0xCD5FD321 } 0x32000000).crc32 = 0x737AF2AE := by decide +kernel

theorem test_crc32_rd :
    answer busy 0x33000000 = ok 1 ∧
    after busy 0x33000000 = busy := by decide +kernel

theorem test_crc16t_clr :
    answer busy 0x40000000 = ok 0 ∧
    after busy 0x40000000 = { busy with crc16t := 0 } := by decide +kernel

/-- V2: the bytes 00 01, and 01 00. -/
theorem test_crc16t_feed :
    (after Block.reset 0x41000001).crc16t = 0x1189 ∧ (after busy 0x41000000).crc16t = 0x19D8 := by decide +kernel

theorem test_crc16t_rd :
    answer busy 0x43000000 = ok 0x1189 ∧
    after busy 0x43000000 = busy := by decide +kernel

theorem test_crc16t_set :
    answer busy 0x4400FFFF = ok 0 ∧
    after busy 0x4400FFFF = { busy with crc16t := 0xFFFF } := by decide +kernel

theorem test_crc16t_tab :
    answer busy 0x45000080 = ok 0x8408 ∧ answer busy 0x450000FF = ok 0x0F78 ∧
    after busy 0x45000080 = busy := by decide +kernel

theorem test_h15_par :
    answer busy 0x500005A5 = ok 0xD ∧ answer busy 0x50000001 = ok 0x3 ∧
    after busy 0x500005A5 = busy := by decide +kernel

theorem test_h15_chk :
    answer busy 0x5100585D = ok 0xA ∧ answer busy 0x51005A5D = ok 0 ∧
    after busy 0x5100585D = busy := by decide +kernel

theorem test_h15_pos :
    answer busy 0x52000001 = ok 0xE ∧ answer busy 0x52000000 = ok 0x80000000 ∧
    after busy 0x52000001 = busy := by decide +kernel

theorem test_h13_par :
    answer busy 0x600001A5 = ok 0x4 ∧ answer busy 0x600001FF = ok 0xB ∧
    after busy 0x600001A5 = busy := by decide +kernel

theorem test_h13_chk :
    answer busy 0x61001AD4 = ok 0xB ∧ answer busy 0x61001A54 = ok 0 ∧
    after busy 0x61001AD4 = busy := by decide +kernel

theorem test_h13_pos :
    answer busy 0x62000007 = ok 2 ∧ answer busy 0x62000009 = ok 0x80000000 ∧
    after busy 0x62000007 = busy := by decide +kernel

theorem test_h16_par :
    answer busy 0x700005A5 = ok 0x1B ∧ answer busy 0x700007FF = ok 0x1F ∧
    after busy 0x700005A5 = busy := by decide +kernel

theorem test_h16_chk :
    answer busy 0x7100B0BB = ok 0x15 ∧ answer busy 0x7100B4BB = ok 0 ∧
    after busy 0x7100B0BB = busy := by decide +kernel

theorem test_h16_pos :
    answer busy 0x72000015 = ok 5 ∧ answer busy 0x72000003 = ok 0x80000000 ∧
    after busy 0x72000015 = busy := by decide +kernel

theorem test_golay_par :
    answer busy 0x80000013 = ok 0x2B2 ∧ answer busy 0x80000001 = ok 0x8EB ∧
    after busy 0x80000013 = busy := by decide +kernel

theorem test_qr_par :
    answer busy 0x90000013 = ok 0x121 ∧ answer busy 0x90000001 = ok 0x73 ∧
    after busy 0x90000013 = busy := by decide +kernel

theorem test_qr_enc :
    answer busy 0x92000013 = ok 0x2721 ∧ answer busy 0x9200007F = ok 0xFE5B ∧
    after busy 0x92000013 = busy := by decide +kernel

theorem test_rs_mul :
    answer busy 0xA5000E38 = ok 0x4D ∧ answer busy 0xA500FFFF = ok 0xE2 ∧
    after busy 0xA5000E38 = busy := by decide +kernel

theorem test_rs_exp :
    answer busy 0xA60000FE = ok 0x8E ∧ answer busy 0xA60000FF = ok 1 ∧
    after busy 0xA60000FE = busy := by decide +kernel

theorem test_rs_log :
    answer busy 0xA7000000 = ok 0x80000000 ∧ answer busy 0xA70000FF = ok 0xAF ∧
    after busy 0xA7000000 = busy := by decide +kernel

theorem test_rs_rd :
    answer busy 0xA1000B00 = ok 0xBC ∧ answer busy 0xA1000200 = ok 0x10 ∧
    after busy 0xA1000B00 = busy := by decide +kernel

theorem test_rs_syn :
    answer busy 0xA3000000 = ok 0 ∧
    after busy 0xA3000000 = busy := by decide +kernel

theorem test_in_rdb :
    answer busy 0xB1001800 = ok 0x70 ∧ answer busy 0xB1000100 = ok 0xB2 ∧
    after busy 0xB1001800 = busy := by decide +kernel

theorem test_mx_rdb :
    answer busy 0xB3001800 = ok 0x40 ∧ answer busy 0xB3000600 = ok 0x1F ∧
    after busy 0xB3001800 = busy := by decide +kernel

theorem test_dat_rdb :
    answer busy 0xB5000B00 = ok 0x7E ∧ answer busy 0xB5000000 = ok 0xBD ∧
    after busy 0xB5000B00 = busy := by decide +kernel

theorem test_bptc_dm :
    answer busy 0xBB000001 = ok 0xB5 ∧ answer busy 0xBB0000C3 = ok 0x0F ∧
    after busy 0xBB000001 = busy := by decide +kernel

theorem test_h15_cor :
    answer busy 0x5300585D = ok 0x45005A5D ∧
    after busy 0x5300585D = { busy with status := result 1 1 5 } := by decide +kernel

theorem test_h15_cor_2 :
    answer busy 0x53003A5D = ok 0x4C003A59 ∧
    after busy 0x53003A5D = { busy with status := result 1 1 12 } := by decide +kernel

theorem test_h13_cor :
    answer busy 0x63000A74 = ok 0x80000A74 ∧
    after busy 0x63000A74 = { busy with status := result 2 0 0 } := by decide +kernel

theorem test_h13_cor_2 :
    answer busy 0x63001FFF = ok 0x4A001FFB ∧
    after busy 0x63001FFF = { busy with status := result 1 1 10 } := by decide +kernel

theorem test_h16_cor :
    answer busy 0x730074BB = ok 0x800074BB ∧
    after busy 0x730074BB = { busy with status := result 2 0 0 } := by decide +kernel

theorem test_h16_cor_2 :
    answer busy 0x7300B4BA = ok 0x4F00B4BB ∧
    after busy 0x7300B4BA = { busy with status := result 1 1 15 } := by decide +kernel

theorem test_golay_chk :
    answer busy 0x810932B2 = ok 0x800003DA ∧
    after busy 0x810932B2 = { busy with status := result 2 0 0 } := by decide +kernel

theorem test_golay_chk_2 :
    answer busy 0x810132B2 = ok 0 ∧
    after busy 0x810132B2 = { busy with status := result 0 0 0 } := by decide +kernel

theorem test_qr_chk :
    answer busy 0x9100A721 = ok 0x8000004F ∧
    after busy 0x9100A721 = { busy with status := result 2 0 0 } := by decide +kernel

theorem test_qr_chk_2 :
    answer busy 0x91002721 = ok 0 ∧
    after busy 0x91002721 = { busy with status := result 0 0 0 } := by decide +kernel

theorem test_rs_ld :
    answer busy 0xA00004A5 = ok 0 ∧
    after busy 0xA00004A5 = { busy with rs := busy.rs.set 4 0xA5 } := by decide +kernel

theorem test_rs_enc :
    (after { busy with rs := #v[1, 2, 3, 4, 5, 6, 7, 8, 9, 0, 0, 0] } 0xA2000000).rs =
      #v[1, 2, 3, 4, 5, 6, 7, 8, 9, 0xBC, 0x70, 0x1F] := by decide +kernel

theorem test_rs_syn_error :
    answer { busy with rs := busy.rs.set 4 0xA5 } 0xA3000000 = ok 0x006470A2 := by decide +kernel

theorem test_rs_dec :
    answer { busy with rs := busy.rs.set 11 0x3C } 0xA4000000 = ok 0x4B000080 ∧
    after { busy with rs := busy.rs.set 11 0x3C } 0xA4000000 = { busy with status := result 1 1 11 } := by decide +kernel

/-- V5.3: a locator outside the word, and a first syndrome of 0. -/
theorem test_rs_dec_outside :
    answer { busy with rs := #v[0, 0, 0, 0, 0, 0, 0, 0, 0, 0xB4, 0x64, 0x09] } 0xA4000000 = ok 0x80000000 ∧
    answer { busy with rs := #v[0, 0, 0, 0, 0, 0, 0, 0, 0, 0, 1, 2] } 0xA4000000 = ok 0x80000000 := by decide +kernel

theorem test_in_ldb :
    answer busy 0xB0001800 = ok 0 ∧
    after busy 0xB0001800 = { busy with inBuf := 0x4BB21D6D82D423340EE966F3C220C387FD8454124DB2D1400 } := by decide +kernel

theorem test_mx_ldb :
    answer busy 0xB20017FF = ok 0 ∧
    after busy 0xB20017FF = { busy with mx := 0x0BD5009800031F5296C61E12CBA46067ED275A846FBD77FF4 } := by decide +kernel

theorem test_dat_ldb :
    answer busy 0xB4000B00 = ok 0 ∧
    after busy 0xB4000B00 = { busy with dat := 0xBD0080031F29661F2CA46600 } := by decide +kernel

theorem test_bptc_deint :
    after { busy with mx := 0 } 0xB6000000 = busy ∧ answer busy 0xB6000000 = ok 0 := by decide +kernel

/-- V6: `MX[51]` flipped. -/
theorem test_bptc_repair :
    answer { busy with mx := busy.mx ^^^ BitVec.twoPow 196 144 } 0xB7000000 = ok 0x40010033 ∧
    after { busy with mx := busy.mx ^^^ BitVec.twoPow 196 144 } 0xB7000000 = { busy with status := result 1 1 0x33 } := by decide +kernel

theorem test_bptc_repair_ones :
    answer { busy with mx := BitVec.allOnes 196 } 0xB7000000 = ok 0x400F00A5 ∧ answer busy 0xB7000000 = ok 0 := by decide +kernel

theorem test_bptc_extract :
    after { busy with dat := 0 } 0xB8000000 = busy ∧ answer busy 0xB8000000 = ok 0 := by decide +kernel

theorem test_bptc_enc :
    after { busy with mx := 0 } 0xB9000000 = busy ∧ answer busy 0xB9000000 = ok 0 := by decide +kernel

theorem test_bptc_int :
    after { busy with inBuf := 0 } 0xBA000000 = busy ∧ answer busy 0xBA000000 = ok 0 := by decide +kernel

/-- R41: `busy` has a fault recorded, so a later cause is not. -/
theorem test_illegal_first_cause :
    answer busy 0xBB0000C4 = err ∧ after busy 0xBB0000C4 = busy := by decide +kernel

theorem test_illegal_causes :
    (after Block.reset 0x42000000).status.ecode = 1 ∧ (after Block.reset 0x00000001).status.ecode = 2 ∧
    (after Block.reset 0x11000068).status.ecode = 3 ∧ (after Block.reset 0x11000068).status.fault = true := by decide +kernel

theorem test_fetch_word :
    (match step (State.reset.withFetchWord 32 0x52000001) with | .next t => t.out | _ => none) = ok 0xE := by decide +kernel


/-! ### The hypotheses of the statements can be met: for each statement with hypotheses, concrete states and operands at the
ends of their ranges -/

/-- A state whose block is `busy`, with one command word presented. -/
def port (w : Word) : State := State.present { State.reset with block := busy } w

/-- A state with the reset pin active and a command word presented. -/
def pinned (w : Word) : State := { block := busy, inputs := [{ rst := true, cmd := some w }], out := none }

/-- A state that holds this Reed-Solomon word and nothing else. -/
def withRs (v : Vector Byte 12) : State := { State.reset with block := { Block.reset with rs := v } }

/-- The code word of V5.2 and V5.3. -/
def rsCodeWord : Vector Byte 12 := #v[0x00, 0x00, 0x10, 0x00, 0x00, 0x01, 0x00, 0x00, 0x02, 0x16, 0x97, 0xBC]

theorem witness_EncodedCommandDecodesToItself :
    Instr.wellFormed (.crc9Feed 1 0) = true ∧ Instr.wellFormed (.crc9Feed 8 0xFF) = true ∧
    Instr.wellFormed (.crc9Feed 0 0) = false ∧ Instr.wellFormed (.crc9Feed 9 0xFF) = false ∧
    Instr.wellFormed (.bptcDm 195) = true ∧ Instr.wellFormed (.bptcDm 196) = false := by decide
theorem witness_DecodedWordIsTheCommandsWord :
    decode 0x00000000 = .ok .nop ∧ decode 0xBB0000FF = .ok (.bptcDm 0xFF) := by
  constructor <;> rfl
theorem witness_StepRunsTheDecodedCommand :
    (port 0x11000868).inputs = { rst := false, cmd := some 0x11000868 } :: [] ∧
    decode 0x11000868 = .ok (.crc9Feed 8 0x68) := by constructor <;> rfl
theorem witness_IllegalWordWritesOnlyTheFaultRecord :
    (port 0x42000000).inputs = { rst := false, cmd := some 0x42000000 } :: [] ∧
    classify 0x42000000 = .error .unknownOpcode ∧
    (port 0x01800000).inputs = { rst := false, cmd := some 0x01800000 } :: [] ∧
    classify 0x01800000 = .error .reservedBits ∧
    (port 0xBB0000C4).inputs = { rst := false, cmd := some 0xBB0000C4 } :: [] ∧
    classify 0xBB0000C4 = .error .operandRange := by
  refine ⟨?_, ?_, ?_, ?_, ?_, ?_⟩ <;> rfl
theorem witness_OutOfRangeOperandIsIllegal :
    ([.crc9Feed 0 0, .crc9Feed 9 0, .rsLd 12 0, .rsRd 15, .datLdb 12 0, .datRdb 15, .inLdb 25 0, .inRdb 31, .mxLdb 25 0,
      .mxRdb 31, .bptcDm 196, .bptcDm 255] : List Instr).all (fun i => !i.wellFormed) = true := by decide
theorem witness_BlockGoesOnWhateverTheFaultRecord :
    Instr.nop ≠ .status ∧ Instr.reset ≠ .status ∧ Instr.bptcDm 255 ≠ .status := by decide
theorem witness_OneResponsePerAcceptedCommand :
    step (port 0x00000000) = .next { block := busy, inputs := [], out := ok 0 } ∧
    (port 0x00000000).inputs = { rst := false, cmd := some 0x00000000 } :: [] ∧
    step { State.reset with block := busy } = .next { block := busy, inputs := [], out := none } ∧
    ∀ w rest, State.reset.inputs ≠ { rst := false, cmd := some w } :: rest := by
  refine ⟨rfl, rfl, rfl, fun _ _ h => ?_⟩
  cases h
theorem witness_FaultRecordIsSticky_illegal :
    (port 0x42000000).inputs = { rst := false, cmd := some 0x42000000 } :: [] ∧
    classify 0x42000000 = .error .unknownOpcode ∧
    step (port 0x42000000) = .next { block := busy, inputs := [], out := err } ∧
    (port 0x42000000).block.status.fault = true ∧
    (State.present State.reset 0x42000000).inputs = { rst := false, cmd := some 0x42000000 } :: [] ∧
    step (State.present State.reset 0x42000000) = .next
      { block := { Block.reset with status := { Status.reset with ecode := 1, fault := true } }, inputs := [], out := err } ∧
    (State.present State.reset 0x42000000).block.status.fault = false := by
  refine ⟨?_, ?_, ?_, ?_, ?_, ?_, ?_⟩ <;> rfl
theorem witness_FaultRecordIsSticky_legal :
    Instr.wellFormed .nop = true ∧ Instr.nop ≠ .reset ∧
    exec .nop (port 0) = .next { port 0 with out := ok 0 } ∧
    exec .reset (port 0) = .next { port 0 with block := Block.reset, out := ok 0 } ∧
    (pinned 0x42000000).inputs = { rst := true, cmd := some 0x42000000 } :: [] ∧
    step (pinned 0x42000000) = .next State.reset := by
  refine ⟨?_, by decide, ?_, ?_, ?_, ?_⟩ <;> rfl
theorem witness_ResetPinWinsOverACommand :
    (pinned 0x21000080).inputs = { rst := true, cmd := some 0x21000080 } :: [] := rfl
theorem witness_WaitingStepKeepsTheBlock :
    ({ State.reset with block := busy } : State).inputs = [] ∧
    ({ State.reset with inputs := [{ rst := false, cmd := none }] } : State).inputs = { rst := false, cmd := none } :: [] := by
  constructor <;> rfl
theorem witness_EveryStepKeepsStatusSound :
    statusSound busy.status ∧ statusSound Status.reset ∧
    step (port 0x530001FF) = .next { block := after busy 0x530001FF, inputs := [], out := answer busy 0x530001FF } := by
  refine ⟨by decide, by decide, rfl⟩
theorem witness_OnlyListedCommandsWriteAnElement :
    ([(.crc9, .crc9Rd), (.crc16, .nop), (.crc32, .crc32Rd), (.crc16t, .crc16tTab 0), (.inBuf, .bptcDeint), (.mx, .bptcInt),
      (.dat, .bptcEnc), (.rs, .rsSyn), (.status, .status), (.status, .h15Chk 0)] : List (Element × Instr)).all
      (fun p => !writes p.1 p.2) = true ∧
    exec .crc9Rd (port 0) = .next { port 0 with out := ok 0x100 } ∧
    exec .status (port 0) = .next { port 0 with out := ok 0x40010505 } := by
  refine ⟨by decide, ?_, ?_⟩ <;> rfl
theorem witness_UnreadElementHasNoInfluence :
    reads .crc9 .crc9Clr = false ∧ reads .mx .bptcEnc = false ∧
    sameExcept .crc9 busy { busy with crc9 := 0 } ∧ busy.crc9 ≠ 0 ∧
    sameExcept .mx busy { busy with mx := 0 } ∧ busy.mx ≠ 0 := by
  refine ⟨rfl, rfl, ?_, by decide, ?_, by decide⟩ <;>
  · intro e h
    cases e <;> first | exact absurd rfl h | exact rfl
theorem witness_ByteLoadsWriteTheirEightBits :
    (0 : BitVec 5).toNat ≤ 24 ∧ (24 : BitVec 5).toNat ≤ 24 ∧ (11 : BitVec 4).toNat ≤ 11 ∧ 24 < (25 : BitVec 5).toNat ∧
    24 < (31 : BitVec 5).toNat ∧ 11 < (12 : BitVec 4).toNat ∧ 11 < (15 : BitVec 4).toNat := by decide
theorem witness_ByteReadsAnswerTheirEightBits :
    (24 : BitVec 5).toNat ≤ 24 ∧ (11 : BitVec 4).toNat ≤ 11 ∧ 24 < (25 : BitVec 5).toNat ∧ 11 < (12 : BitVec 4).toNat := by decide
theorem witness_LoadThenReadGivesTheByte :
    (24 : BitVec 5).toNat ≤ 24 ∧ (23 : BitVec 5).toNat ≤ 24 ∧ (11 : BitVec 4).toNat ≤ 11 := by decide
theorem witness_CrcFeedIsAPolynomialRemainder :
    1 ≤ (1 : BitVec 4).toNat ∧ (1 : BitVec 4).toNat ≤ 8 ∧ 1 ≤ (8 : BitVec 4).toNat ∧ (8 : BitVec 4).toNat ≤ 8 := by decide
theorem witness_Crc9ClosedForm :
    (∀ p ∈ ([] : List (BitVec 4 × Byte)), 1 ≤ p.1.toNat ∧ p.1.toNat ≤ 8) ∧
    (∀ p ∈ ([(1, 0x01), (8, 0x68)] : List (BitVec 4 × Byte)), 1 ≤ p.1.toNat ∧ p.1.toNat ≤ 8) := by
  constructor <;> simp
theorem witness_HammingCorrectionOutcomes_h15 :
    hamSyn params.gH15 0x5A5D = 0 ∧ hamSyn params.gH15 0x585D ≠ 0 := by decide +kernel
theorem witness_HammingCorrectionOutcomes_h13 :
    hamSyn params.gH13 0x1A54 = 0 ∧ hamSyn params.gH13 0x0A74 = 0x9#4 ∧ hamSyn params.gH13 0x000D = 0xD#4 ∧
    hamSyn params.gH13 0x1AD4 ∉ [0x0#4, 0x9#4, 0xD#4] := by decide +kernel
theorem witness_HammingCorrectionOutcomes_h16 :
    hamSyn params.gH16 0xB4BB = 0 ∧ hamSyn params.gH16 0x74BB ≠ 0 ∧ weight (hamSyn params.gH16 0x74BB) % 2 = 0 ∧
    weight (hamSyn params.gH16 0xB0BB) % 2 = 1 := by decide +kernel
theorem witness_DistinctRowsLocateSingleErrors :
    (hamRows params.gH15).Nodup ∧ 0#4 ∉ hamRows params.gH15 ∧ hamSyn params.gH15 0x5A5D = 0 ∧ 14 < 11 + 4 ∧
    (hamCor params.gH15 0x585D).cat = .corrected := by decide +kernel
theorem witness_DoubleErrorsInH16AreDetected :
    hamSyn params.gH16 0xB4BB = 0 ∧ 0 < 1 ∧ 1 < 16 ∧ 14 < 15 ∧ 15 < 16 := by decide +kernel
theorem witness_ErrorsBelowTheDistanceAreDetected :
    hamSyn params.gGolay 0x132B2 = 0 ∧ weight (0x0007F : BitVec 20) ≤ 7 ∧ weight (0x80000 : BitVec 20) ≤ 7 ∧
    (0x0007F : BitVec 20) ≠ 0 ∧ hamSyn params.gQr 0x2721 = 0 ∧ weight (0x001F : BitVec 16) ≤ 5 ∧
    (0x001F : BitVec 16) ≠ 0 := by decide +kernel
theorem witness_RsBytesLoadAndRead :
    (11 : Fin 12).val = (11 : BitVec 4).toNat ∧ (0 : Fin 12).val = (0 : BitVec 4).toNat ∧ 11 < (12 : BitVec 4).toNat := by decide
theorem witness_FieldLaws :
    (0xFF : Byte) ≠ 0 ∧ 0 < 255 ∧ 254 < 255 ∧ gfPow 0x11D 254 = gfPow 0x11D 254 := by decide +kernel
theorem witness_ExpAndLogAreInverse :
    (0 : Byte) = 0 ∧ (255 : Byte) = 255 ∧ (254 : Byte) ≠ 255 ∧ (253 : Byte).toNat < 254 ∧ (1 : Byte) ≠ 0 ∧
    (255 : Byte) ≠ 0 := by decide

/-- `RS.SYN` answers 0 on the code word of V5.2. -/
theorem rsSyn_codeWord : exec .rsSyn (withRs rsCodeWord) = answerNext (withRs rsCodeWord) 0 := by
  have h : rspVal (rsSyndrome params.gfPoly rsCodeWord.toList 1 ++ rsSyndrome params.gfPoly rsCodeWord.toList 2 ++
      rsSyndrome params.gfPoly rsCodeWord.toList 3) = 0 := by decide +kernel
  show execRsSyn _ = _
  rw [execRsSyn, execRsSynWith, State.reply, answerNext]
  exact congrArg (fun r => Host.Outcome.next { withRs rsCodeWord with out := some { rsp := r, err := false } }) h

/-- `RS.SYN` answers 0 on the zero word. -/
theorem rsSyn_zero : exec .rsSyn State.reset = answerNext State.reset 0 := by
  have h : rspVal (rsSyndrome params.gfPoly Block.reset.rs.toList 1 ++ rsSyndrome params.gfPoly Block.reset.rs.toList 2 ++
      rsSyndrome params.gfPoly Block.reset.rs.toList 3) = 0 := by decide +kernel
  show execRsSyn _ = _
  rw [execRsSyn, execRsSynWith, State.reply, answerNext]
  exact congrArg (fun r => Host.Outcome.next { State.reset with out := some { rsp := r, err := false } }) h

theorem witness_RsEncodingYieldsACodeWord :
    (8 : Fin 12).val < 9 ∧ (withRs rsCodeWord).block.rs = rsCodeWord := by decide +kernel
theorem witness_RsMinimumDistanceIsFour :
    exec .rsSyn (withRs rsCodeWord) = answerNext (withRs rsCodeWord) 0 ∧ exec .rsSyn State.reset = answerNext State.reset 0 ∧
    (withRs rsCodeWord).block.rs ≠ State.reset.block.rs := ⟨rsSyn_codeWord, rsSyn_zero, by decide +kernel⟩
theorem witness_RsSingleErrorsAreCorrected :
    exec .rsSyn (withRs rsCodeWord) = answerNext (withRs rsCodeWord) 0 ∧ (0x01 : Byte) ≠ 0 ∧ (0xFF : Byte) ≠ 0 :=
  ⟨rsSyn_codeWord, by decide, by decide⟩
theorem witness_RsDoubleErrorsAreUncorrectable :
    exec .rsSyn State.reset = answerNext State.reset 0 ∧
    (List.finRange 12).countP (fun i : Fin 12 => decide
      ((withRs #v[1, 0, 0, 0, 0, 0, 0, 0, 0, 0, 0, 0xFF]).block.rs[i] ≠ State.reset.block.rs[i])) = 2 :=
  ⟨rsSyn_zero, by decide +kernel⟩
theorem witness_RsDecodeOutcomes :
    exec .rsSyn State.reset = answerNext State.reset 0 ∧
    answer { Block.reset with rs := #v[0, 0, 0, 0, 0, 0, 0, 0, 0, 0, 1, 2] } 0xA3000000 = ok 0x0000060A ∧
    answer { Block.reset with rs := #v[0, 0, 0, 0, 0, 0, 0, 0, 0, 0, 1, 2] } 0xA4000000 = ok 0x80000000 ∧
    answer { Block.reset with rs := rsCodeWord.set 0 0x01 } 0xA3000000 = ok 0x00E8EA27 ∧
    answer { Block.reset with rs := rsCodeWord.set 0 0x01 } 0xA4000000 = ok 0x40000001 := by
  refine ⟨rsSyn_zero, ?_, ?_, ?_, ?_⟩ <;> decide +kernel
theorem witness_DeinterleaveTableIsABijection :
    (0 : Byte).toNat ≤ 195 ∧ (195 : Byte).toNat ≤ 195 ∧ 195 < (196 : Byte).toNat ∧ 195 < (255 : Byte).toNat ∧
    exec (.bptcDm 195) State.reset = exec (.bptcDm 195) State.reset := ⟨by decide, by decide, by decide, by decide, rfl⟩
theorem witness_SingleTransmissionErrorsAreRepaired : (0 : Nat) < 196 ∧ 195 < 196 := by decide
theorem witness_RepairOutcomes :
    hamSyn params.gH13 (column (flipBit (flipBit busy.mx 6) 111) 5) ∈ [0x9#4, 0xD#4] ∧
    (∀ c < 15, hamSyn params.gH13 (column busy.mx c) = 0) ∧ (∀ r < 9, hamSyn params.gH15 (row busy.mx r) = 0) := by
  decide +kernel
theorem witness_RepairOutcomes_column :
    (hamCor params.gH13 (column (flipBit busy.mx 51) 5)).cat = .corrected ∧
    (∀ c < 15, 5 < c → (hamCor params.gH13 (column (flipBit busy.mx 51) c)).cat ≠ .corrected) ∧
    (repairColumn params ⟨flipBit busy.mx 51, 0, 0, false⟩ 5).mx = busy.mx ∧
    (∀ r < 9, (hamCor params.gH15 (row busy.mx r)).cat ≠ .corrected) := by decide +kernel
/-- V6: with `M(3,5)` and `M(6,5)` flipped the column pass flips `M(7,5)`, and row 7 is the last row corrected. -/
theorem witness_RepairOutcomes_row :
    (repairColumn params ⟨flipBit (flipBit busy.mx 51) 96, 0, 0, false⟩ 5).mx =
      flipBit (flipBit (flipBit busy.mx 51) 96) 111 ∧
    (hamCor params.gH15 (row (flipBit (flipBit (flipBit busy.mx 51) 96) 111) 7)).cat = .corrected ∧
    (hamCor params.gH15 (row (flipBit (flipBit (flipBit busy.mx 51) 96) 111) 8)).cat ≠ .corrected := by decide +kernel

end Sys2Proof.Tests
end

/-! What one step does and what it leaves in `STATUS` (`00_scope.md` R11, R12; `10_state.md` R40, R41, R48). `StatusWrite`
lists the four things a step can do to `STATUS`; each of them keeps a sound `STATUS` sound. -/

namespace Sys2Proof.Machine

/-! ### One step, by what the host presents -/

section Step
variable {s : State} {rest : List PortInput}

/-- Nothing is left to present: the block waits (R421). -/
theorem step_of_inputs_nil (h : s.inputs = []) : step s = .next s.idle := by
  rw [step, s.accept_nil h]

/-- The reset pin is active: whatever is presented with it is dropped (R391). -/
theorem step_of_rst {cmd : Option Word} (h : s.inputs = { rst := true, cmd := cmd } :: rest) :
    step s = .next (State.pinReset { s with inputs := rest }) := by
  rw [step, s.accept_rst h]

/-- Neither the pin nor a command is presented: the block waits (R428). -/
theorem step_of_wait (h : s.inputs = { rst := false, cmd := none } :: rest) :
    step s = .next (State.idle { s with inputs := rest }) := by
  rw [step, s.accept_wait h]

/-- The word presented decodes to a command (R80). -/
theorem step_of_decode_ok {w : Word} {i : Instr} (h : s.inputs = { rst := false, cmd := some w } :: rest)
    (hd : decode w = .ok i) : step s = exec i { s with inputs := rest } := by
  rw [step, s.accept_command w h]
  simp only [hd]

/-- The word presented is no command (R383). -/
theorem step_of_decode_error {w : Word} {c : IllegalCode} (h : s.inputs = { rst := false, cmd := some w } :: rest)
    (hd : decode w = .error c) : step s = State.raiseIllegal { s with inputs := rest } c := by
  rw [step, s.accept_command w h]
  simp only [hd]

end Step

/-! ### The results that a command records -/

/-- What the result fields of R48 can say: `CNT` and `POS` in their ranges, and both in agreement with the category. -/
structure SoundResult (cat : Category) (pos cnt : Nat) : Prop where
  cnt_le : cnt ≤ 24
  pos_le : pos ≤ 195
  cnt_of_clean : cat = .clean → cnt = 0
  cnt_of_corrected : cat = .corrected → cnt ≠ 0
  pos_of_cnt : cnt = 0 → pos = 0

/-- A command that corrects at most one bit or symbol, and gives position 0 where it corrects none. -/
theorem soundResult_correctionCount {cat : Category} {pos : Nat} (hle : pos ≤ 195) (h0 : cat ≠ .corrected → pos = 0) :
    SoundResult cat pos (correctionCount cat) := by
  cases cat with
  | clean => exact ⟨by decide, hle, fun _ => rfl, nofun, fun _ => h0 nofun⟩
  | corrected => exact ⟨by decide, hle, nofun, fun _ => by decide, nofun⟩
  | uncorrectable => exact ⟨by decide, hle, nofun, nofun, fun _ => h0 nofun⟩

/-- A check without correction (R264, R275). -/
theorem soundResult_checkCategory {m : Nat} (syn : BitVec m) : SoundResult (checkCategory syn) 0 0 := by
  unfold checkCategory
  split
  · exact soundResult_correctionCount (cat := .clean) (Nat.zero_le _) fun _ => rfl
  · exact soundResult_correctionCount (cat := .uncorrectable) (Nat.zero_le _) fun _ => rfl

theorem length_hamRows {k m : Nat} (G : Vector (BitVec m) k) : (hamRows G).length = k + m := by
  simp [hamRows]

/-- The search of R221 locates a bit of the code word. -/
theorem hamPos_lt {k m i : Nat} {G : Vector (BitVec m) k} {syn : BitVec m} (h : hamPos G syn = some i) : i < k + m := by
  rw [← length_hamRows G]
  exact (List.findIdx?_eq_some_iff_getElem.mp h).1

/-- The position that a Hamming correction reports is an index of the code word (R221). -/
theorem hamCor_pos_lt {k m : Nat} (G : Vector (BitVec m) k) (w : BitVec (k + m)) (hn : 0 < k + m) :
    (hamCor G w).pos < k + m := by
  obtain ⟨-, h⟩ | ⟨-, -, h⟩ | ⟨i, -, hi, h⟩ := hamCor_cases G w
  · rwa [h]
  · rwa [h]
  · rw [h]; exact hamPos_lt hi

/-- A Hamming correction that changes no bit reports position 0 (R221). -/
theorem hamCor_pos_eq_zero {k m : Nat} (G : Vector (BitVec m) k) (w : BitVec (k + m))
    (hc : (hamCor G w).cat ≠ .corrected) : (hamCor G w).pos = 0 := by
  obtain ⟨-, h⟩ | ⟨-, -, h⟩ | ⟨i, -, -, h⟩ := hamCor_cases G w
  · rw [h]
  · rw [h]
  · exact absurd (by rw [h]) hc

/-- The result of a `COR` command (R228). -/
theorem soundResult_hamCor {k m : Nat} (G : Vector (BitVec m) k) (w : BitVec (k + m)) (hn : 0 < k + m)
    (hle : k + m ≤ 196) : SoundResult (hamCor G w).cat (hamCor G w).pos (correctionCount (hamCor G w).cat) :=
  soundResult_correctionCount (by have := hamCor_pos_lt G w hn; omega) (hamCor_pos_eq_zero G w)

/-- The result of `RS.DEC` (R306, R314). -/
theorem soundResult_rsDecode (poly : BitVec 9) (cw : Vector Byte 12) :
    SoundResult (rsDecode poly cw).cat (rsDecode poly cw).pos (correctionCount (rsDecode poly cw).cat) := by
  obtain h | h | ⟨k, _, e, h⟩ := rsDecode_cases poly cw <;> rw [h]
  · exact soundResult_correctionCount (Nat.zero_le _) fun _ => rfl
  · exact soundResult_correctionCount (Nat.zero_le _) fun _ => rfl
  · exact soundResult_correctionCount (show 11 - k ≤ 195 by omega) fun hc => absurd rfl hc

/-! ### The repair loop -/

/-- What holds of the repair loop's variables after `n` checks (R345). -/
structure RepairBounded (n : Nat) (a : Repair) : Prop where
  cnt_le : a.cnt ≤ n
  pos_le : a.pos ≤ 195
  pos_of_cnt : a.cnt = 0 → a.pos = 0

/-- One check flips at most one bit, at the index it located (R345). -/
theorem RepairBounded.repairWith {n idx : Nat} {a : Repair} (ha : RepairBounded n a) (cat : Category)
    (hidx : idx ≤ 195) : RepairBounded (n + 1) (repairWith a cat idx) := by
  obtain ⟨hcnt, hpos, h0⟩ := ha
  obtain ⟨-, h⟩ | ⟨-, h⟩ | ⟨-, h⟩ := repairWith_cases a cat idx <;> rw [h]
  · exact ⟨by omega, hpos, h0⟩
  · exact ⟨by simpa using hcnt, hidx, by simp⟩
  · exact ⟨Nat.le_succ_of_le hcnt, hpos, h0⟩

theorem RepairBounded.repairColumn {n c : Nat} {a : Repair} (p : Config) (ha : RepairBounded n a) (hc : c < 15) :
    RepairBounded (n + 1) (repairColumn p a c) := by
  have hpos := hamCor_pos_lt p.gH13 (column a.mx c) (by omega)
  exact ha.repairWith _ (by unfold mxIndex; omega)

theorem RepairBounded.repairRow {n r : Nat} {a : Repair} (p : Config) (ha : RepairBounded n a) (hr : r < 9) :
    RepairBounded (n + 1) (repairRow p a r) := by
  have hpos := hamCor_pos_lt p.gH15 (row a.mx r) (by omega)
  exact ha.repairWith _ (by unfold mxIndex; omega)

/-- One pass of the repair: a check for each element of a list. -/
theorem RepairBounded.foldl {f : Repair → Nat → Repair} {l : List Nat}
    (hf : ∀ n a, ∀ c ∈ l, RepairBounded n a → RepairBounded (n + 1) (f a c)) {n : Nat} {a : Repair}
    (ha : RepairBounded n a) : RepairBounded (n + l.length) (l.foldl f a) := by
  induction l generalizing n a with
  | nil => exact ha
  | cons c l ih =>
    have hl := ih (fun n a c hc => hf n a c (List.mem_cons_of_mem _ hc)) (hf n a c List.mem_cons_self ha)
    rwa [Nat.add_assoc, Nat.add_comm 1] at hl

/-- Both passes make 24 checks, so at most 24 flips (R48, R345). -/
theorem repairBounded_repairLoop (p : Config) (mx : BitVec 196) : RepairBounded 24 (repairLoop p mx) := by
  have hstart : RepairBounded 0 ⟨mx, 0, 0, false⟩ := ⟨Nat.le_refl 0, Nat.zero_le _, fun _ => rfl⟩
  have hcolumns := hstart.foldl (l := List.range 15) (f := repairColumn p)
    fun _ _ _ hc ha => ha.repairColumn p (List.mem_range.mp hc)
  exact hcolumns.foldl (l := List.range 9) (f := repairRow p)
    fun _ _ _ hr ha => ha.repairRow p (List.mem_range.mp hr)

/-- The result of `BPTC.REPAIR`: its category goes by the count that its loop ends with (R345, R351). -/
theorem soundResult_of_repairBounded {a : Repair} (ha : RepairBounded 24 a) :
    SoundResult (repairCategory a) a.pos a.cnt := by
  obtain ⟨hcnt, hpos, h0⟩ := ha
  unfold repairCategory
  split_ifs with hfatal hflips
  · exact ⟨hcnt, hpos, nofun, nofun, h0⟩
  · exact ⟨hcnt, hpos, nofun, fun _ => hflips.ne', h0⟩
  · exact ⟨hcnt, hpos, fun _ => Nat.eq_zero_of_not_pos hflips, nofun, h0⟩

/-! ### All that a step can do to `STATUS` -/

/-- The four things that a step can do to `STATUS`: keep it, reset it (R50), record an illegal command (R41), or record a
result (R48). -/
inductive StatusWrite (r : Status) : Status → Prop where
  | kept : StatusWrite r r
  | reset : StatusWrite r Status.reset
  | illegal (c : IllegalCode) : StatusWrite r (recordIllegal r c)
  | result {cat : Category} {pos cnt : Nat} (h : SoundResult cat pos cnt) : StatusWrite r (recordResult r cat pos cnt)

/-- The outcome is a next state, and `STATUS` there comes from `r` by one of the four writes. -/
def EndsInStatusWrite (r : Status) (o : Host.Outcome State Fault Refusal) : Prop :=
  ∃ t, o = .next t ∧ StatusWrite r t.block.status

section Endings
variable {s : State}

/-- A legal command that does not write `STATUS`. -/
theorem endsInStatusWrite_reply_kept {b : Block} {v : Word} (h : b.status = s.block.status) :
    EndsInStatusWrite s.block.status (s.reply b v) := ⟨_, rfl, h ▸ .kept⟩

theorem endsInStatusWrite_raiseIllegal (c : IllegalCode) : EndsInStatusWrite s.block.status (s.raiseIllegal c) :=
  ⟨_, rfl, .illegal c⟩

theorem endsInStatusWrite_replyCor {k m : Nat} (G : Vector (BitVec m) k) (w : BitVec (k + m)) (hn : 0 < k + m)
    (hle : k + m ≤ 196) : EndsInStatusWrite s.block.status (s.replyCor (hamCor G w)) :=
  ⟨_, rfl, .result (soundResult_hamCor G w hn hle)⟩

theorem endsInStatusWrite_replyChk {m : Nat} (syn : BitVec m) : EndsInStatusWrite s.block.status (s.replyChk syn) :=
  ⟨_, rfl, .result (soundResult_checkCategory syn)⟩

/-- `RS.DEC` records the result of its decoding (R314). -/
theorem endsInStatusWrite_execRsDec : EndsInStatusWrite s.block.status (execRsDec s) := by
  rw [execRsDec, execRsDecWith]
  exact ⟨_, rfl, .result (soundResult_rsDecode _ _)⟩

/-- `BPTC.REPAIR` records the result of its loop (R351). -/
theorem endsInStatusWrite_execBptcRepair : EndsInStatusWrite s.block.status (execBptcRepair s) := by
  rw [execBptcRepair, execBptcRepairWith]
  exact ⟨_, rfl, .result (soundResult_of_repairBounded (repairBounded_repairLoop _ _))⟩

end Endings

/-- Every command ends in a next state and does one of the four things to `STATUS` (R383, R385). -/
theorem exec_endsInStatusWrite (i : Instr) (s : State) : EndsInStatusWrite s.block.status (exec i s) := by
  cases i with
  | reset => exact ⟨_, rfl, .reset⟩
  | h15Cor w => exact endsInStatusWrite_replyCor params.gH15 w (by decide) (by decide)
  | h13Cor w => exact endsInStatusWrite_replyCor params.gH13 w (by decide) (by decide)
  | h16Cor w => exact endsInStatusWrite_replyCor params.gH16 w (by decide) (by decide)
  | golayChk w | qrChk w => exact endsInStatusWrite_replyChk _
  | rsDec => exact endsInStatusWrite_execRsDec
  | bptcRepair => exact endsInStatusWrite_execBptcRepair
  | crc9Feed _ _ | rsLd _ _ | rsRd _ | inLdb _ _ | inRdb _ | mxLdb _ _ | mxRdb _ | datLdb _ _ | datRdb _ | bptcDm _ =>
    simp only [exec, execCrc9Feed, execCrc9FeedWith, execRsLd, execRsRd, execInLdb, execInRdb, execMxLdb, execMxRdb,
      execDatLdb, execDatRdb, execBptcDm, execBptcDmWith]
    split
    · exact endsInStatusWrite_raiseIllegal _
    · exact endsInStatusWrite_reply_kept rfl
  | _ => exact endsInStatusWrite_reply_kept rfl

/-- Every step ends in a next state and does one of the four things to `STATUS` (R385). -/
theorem step_endsInStatusWrite (s : State) : EndsInStatusWrite s.block.status (step s) := by
  rcases hs : s.inputs with _ | ⟨⟨_ | _, _ | w⟩, rest⟩
  case nil => exact ⟨_, step_of_inputs_nil hs, .kept⟩
  case cons.false.none => exact ⟨_, step_of_wait hs, .kept⟩
  case cons.false.some =>
    cases hd : decode w with
    | ok i => rw [step_of_decode_ok hs hd]; exact exec_endsInStatusWrite i { s with inputs := rest }
    | error c => rw [step_of_decode_error hs hd]; exact endsInStatusWrite_raiseIllegal (s := { s with inputs := rest }) c
  case cons.true.none => exact ⟨_, step_of_rst hs, .reset⟩
  case cons.true.some => exact ⟨_, step_of_rst hs, .reset⟩

/-! ### A sound `STATUS` stays sound -/

theorem categoryCode_eq_zero_iff (cat : Category) : categoryCode cat = 0 ↔ cat = .clean := by cases cat <;> decide

theorem categoryCode_eq_one_iff (cat : Category) : categoryCode cat = 1 ↔ cat = .corrected := by cases cat <;> decide

/-- A recorded cause is one of 1, 2, 3, and an earlier one is kept (R41, R381). -/
theorem statusSound_recordIllegal {r : Status} (h : statusSound r) (c : IllegalCode) : statusSound (recordIllegal r c) := by
  obtain ⟨hst, hecode, hfault, hresult⟩ := h
  obtain ⟨hne, hle⟩ := causeCode_range c
  refine ⟨hst, ?_, ?_, hresult⟩ <;> rw [recordIllegal_ecode] <;> split
  · exact hecode
  · exact hle
  · next hf => simpa using hfault.mp hf
  · simpa using hne

/-- `POS` and `CNT` hold a sound result's numbers uncut, since both fit in 8 bits (R48). -/
theorem statusSound_recordResult {r : Status} {cat : Category} {pos cnt : Nat} (h : statusSound r)
    (hres : SoundResult cat pos cnt) : statusSound (recordResult r cat pos cnt) := by
  obtain ⟨-, hecode, hfault, -⟩ := h
  obtain ⟨hcnt, hpos, hclean, hcorrected, hzero⟩ := hres
  have hcnt_zero : BitVec.ofNat 8 cnt = 0 ↔ cnt = 0 := by
    rw [← BitVec.toNat_inj, BitVec.toNat_ofNat, Nat.mod_eq_of_lt (by omega)]; rfl
  refine ⟨categoryCode_ne_three cat, hecode, hfault, ?_, ?_, ?_, ?_, ?_⟩
  · rw [recordResult_cnt, BitVec.toNat_ofNat]; omega
  · rw [recordResult_pos, BitVec.toNat_ofNat]; omega
  · exact fun hst => hcnt_zero.mpr (hclean ((categoryCode_eq_zero_iff cat).mp hst))
  · exact fun hst => mt hcnt_zero.mp (hcorrected ((categoryCode_eq_one_iff cat).mp hst))
  · exact fun h0 => by simp [hzero (hcnt_zero.mp h0)]

/-- Each of the four writes keeps a sound `STATUS` sound. -/
theorem StatusWrite.statusSound {r r' : Status} (hw : StatusWrite r r') (h : statusSound r) : statusSound r' := by
  cases hw with
  | kept => exact h
  | reset => decide
  | illegal c => exact statusSound_recordIllegal h c
  | result hres => exact statusSound_recordResult h hres

/-! ### The obligations -/

/-- Settles O14: a step ends in one of the four writes, and each of them keeps `STATUS` sound. -/
theorem everyStepKeepsStatusSound : Obligations.EveryStepKeepsStatusSound := by
  intro s t h hstep
  obtain ⟨t', ht', hw⟩ := step_endsInStatusWrite s
  cases ht'.symm.trans hstep
  exact hw.statusSound h

/-- Settles O5: the case of the step on which a word is accepted and decodes. -/
theorem stepRunsTheDecodedCommand : Obligations.StepRunsTheDecodedCommand :=
  fun _ _ _ _ h hd => step_of_decode_ok h hd

end Sys2Proof.Machine

/-! What a command can do to the block: which elements of R30 it reads and writes (`10_state.md` R30, R41, R48, R50). `Act`
lists the seven shapes of a legal command; the frame, the fault record and the absence of influence are read off that list,
so that the 57 commands are gone through once. -/

namespace Sys2Proof.Machine

/-! ### The elements of the block as places that are read and written -/

/-- The values that an element of R30 holds. -/
abbrev Element.Val : Element → Type
  | .crc9 => BitVec 9
  | .crc16 => BitVec 16
  | .crc32 => BitVec 32
  | .crc16t => BitVec 16
  | .inBuf => BitVec 196
  | .mx => BitVec 196
  | .dat => BitVec 96
  | .rs => Vector Byte 12
  | .status => Status

/-- The value that the block holds in an element. -/
def Block.get (b : Block) : (e : Element) → e.Val
  | .crc9 => b.crc9
  | .crc16 => b.crc16
  | .crc32 => b.crc32
  | .crc16t => b.crc16t
  | .inBuf => b.inBuf
  | .mx => b.mx
  | .dat => b.dat
  | .rs => b.rs
  | .status => b.status

/-- The block with a new value in an element; `Block.get_set_self` and `Block.get_set_of_ne` say what it then holds. -/
def Block.set (b : Block) : (e : Element) → e.Val → Block
  | .crc9, v => { b with crc9 := v }
  | .crc16, v => { b with crc16 := v }
  | .crc32, v => { b with crc32 := v }
  | .crc16t, v => { b with crc16t := v }
  | .inBuf, v => { b with inBuf := v }
  | .mx, v => { b with mx := v }
  | .dat, v => { b with dat := v }
  | .rs, v => { b with rs := v }
  | .status, v => { b with status := v }

section Elements
variable {a b : Block} {e f : Element}

/-- `RESET` writes every element (R30, R50). -/
theorem writes_reset (e : Element) : writes e .reset = true := by cases e <;> rfl

theorem sameElement_iff : sameElement e a b ↔ a.get e = b.get e := by cases e <;> rfl

@[simp] theorem Block.get_set_self (v : f.Val) : (b.set f v).get f = v := by cases f <;> rfl

/-- Writing an element leaves every other element. -/
theorem Block.get_set_of_ne (v : f.Val) (h : e ≠ f) : (b.set f v).get e = b.get e := by
  cases f <;> cases e <;> trivial

theorem Block.status_set_of_ne (v : f.Val) (h : f ≠ .status) : (b.set f v).status = b.status :=
  Block.get_set_of_ne v h.symm

theorem sameExcept.get_eq (h : sameExcept e a b) (hf : f ≠ e) : a.get f = b.get f := sameElement_iff.mp (h f hf)

/-- Two blocks that differ at most in `e` still do after a write of the same element, if the values written are equal or the
element is `e`. -/
theorem sameExcept.set (h : sameExcept e a b) {x y : f.Val} (hxy : f ≠ e → x = y) :
    sameExcept e (a.set f x) (b.set f y) := by
  intro e' he
  rw [sameElement_iff]
  by_cases hf : e' = f
  · subst hf
    rw [Block.get_set_self, Block.get_set_self, hxy he]
  · rw [Block.get_set_of_ne x hf, Block.get_set_of_ne y hf, h.get_eq he]

end Elements

/-! ### Operands in and out of their range -/

theorem spaceIndex_eq_none_iff_legalIndex12 {i : BitVec 4} : spaceIndex 12 i = none ↔ legalIndex12 i = false := by
  rw [spaceIndex_eq_none, legalIndex12, decide_eq_false_iff_not, Nat.not_le]; rfl

theorem spaceIndex_eq_none_iff_legalIndex25 {i : BitVec 5} : spaceIndex 25 i = none ↔ legalIndex25 i = false := by
  rw [spaceIndex_eq_none, legalIndex25, decide_eq_false_iff_not, Nat.not_le]; rfl

theorem spaceIndex_eq_none_iff_legalDmIndex {a : Byte} : spaceIndex 196 a = none ↔ legalDmIndex a = false := by
  rw [spaceIndex_eq_none, legalDmIndex, decide_eq_false_iff_not, Nat.not_le]; rfl

/-! ### The seven shapes of a legal command -/

/-- What a legal command `i` can do: the block it leaves and the word it answers, as functions of the block it finds. The
hypotheses tie the elements it touches to the columns of R30. -/
inductive Act (i : Instr) : (Block → Block) → (Block → Word) → Prop where
  /-- Answers a word that depends on no state. -/
  | answer (v : Word) : Act i id fun _ => v
  /-- Answers a word that depends on one element. -/
  | read (g : Element) (hr : reads g i = true) (v : g.Val → Word) : Act i id fun b => v (b.get g)
  /-- Gives one element a value that depends on at most its own. -/
  | update (f : Element) (hf : f ≠ .status) (hw : writes f i = true) (v : f.Val → f.Val) :
    Act i (fun b => b.set f (v (b.get f))) fun _ => 0
  /-- Gives one element a value that depends on another. -/
  | transfer (g f : Element) (hf : f ≠ .status) (hr : reads g i = true) (hw : writes f i = true) (v : g.Val → f.Val) :
    Act i (fun b => b.set f (v (b.get g))) fun _ => 0
  /-- Records and answers a result that depends on no state (R48). -/
  | record (hw : writes .status i = true) (cat : Category) (pos cnt : Nat) (v : Word) :
    Act i (fun b => b.set .status (recordResult b.status cat pos cnt)) fun _ => v
  /-- Corrects one element, and records and answers the result of the correction (R48). -/
  | correct {ρ : Type} (g : Element) (hg : g ≠ .status) (hr : reads g i = true) (hw : writes g i = true)
    (hws : writes .status i = true) (result : g.Val → ρ) (v : ρ → g.Val) (cat : ρ → Category) (pos cnt : ρ → Nat)
    (rsp : ρ → Word) :
    Act i
      (fun b => (b.set g (v (result (b.get g)))).set .status
        (recordResult b.status (cat (result (b.get g))) (pos (result (b.get g))) (cnt (result (b.get g)))))
      fun b => rsp (result (b.get g))
  /-- Resets the block (R50). -/
  | reset (hi : i = .reset) : Act i (fun _ => Block.reset) fun _ => 0

/-- A command outside its operand range raises cause 3 and does nothing else; any other does one of the seven things. -/
def Behaves (i : Instr) : Prop :=
  (i.wellFormed = false ∧ ∀ s : State, exec i s = s.raiseIllegal .operandRange) ∨
  (i.wellFormed = true ∧ ∃ (f : Block → Block) (r : Block → Word), Act i f r ∧
    ∀ s : State, exec i s = s.reply (f s.block) (r s.block))

/-- A command without a range check. -/
theorem Behaves.of_act {i : Instr} {f : Block → Block} {r : Block → Word} (hi : i.wellFormed = true) (h : Act i f r)
    (hexec : ∀ s : State, exec i s = s.reply (f s.block) (r s.block)) : Behaves i := .inr ⟨hi, f, r, h, hexec⟩

/-- A command that checks an operand first (R107 (c)) and goes on with what the check gives. -/
theorem Behaves.of_check {i : Instr} {α : Type} {o : Option α} {f : α → Block → Block} {r : α → Block → Word}
    (ho : o = none ↔ i.wellFormed = false) (h : ∀ k, Act i (f k) (r k))
    (hexec : ∀ s : State, exec i s =
      o.elim (s.raiseIllegal .operandRange) fun k => s.reply (f k s.block) (r k s.block)) : Behaves i := by
  cases o with
  | none => exact .inl ⟨ho.mp rfl, hexec⟩
  | some k => exact .inr ⟨Bool.not_eq_false _ ▸ mt ho.mpr nofun, f k, r k, h k, hexec⟩

/-- All that a command can do (R30, R107 (c)). -/
theorem behaves (i : Instr) : Behaves i := by
  cases i with
  | nop => exact .of_act rfl (.answer 0) fun _ => rfl
  | status => exact .of_act rfl (.read .status rfl statusWord) fun _ => rfl
  | reset => exact .of_act rfl (.reset rfl) fun _ => rfl
  | crc9Clr => exact .of_act rfl (.update .crc9 nofun rfl fun _ => 0) fun _ => rfl
  | crc9Feed n b =>
    exact .of_check feedCount_eq_none (fun k => .update .crc9 nofun rfl (crcFeed params.crc9Poly b k))
      fun _ => by rw [exec, execCrc9Feed, execCrc9FeedWith]; cases feedCount n <;> rfl
  | crc9Fin => exact .of_act rfl (.update .crc9 nofun rfl (crcFin params.crc9Poly params.crc9Fin)) fun _ => rfl
  | crc9Rd => exact .of_act rfl (.read .crc9 rfl rspVal) fun _ => rfl
  | crc16Clr => exact .of_act rfl (.update .crc16 nofun rfl fun _ => 0) fun _ => rfl
  | crc16Feed b => exact .of_act rfl (.update .crc16 nofun rfl (crcFeed params.crc16Poly b 8)) fun _ => rfl
  | crc16Fin => exact .of_act rfl (.update .crc16 nofun rfl (crcFin params.crc16Poly params.crc16Fin)) fun _ => rfl
  | crc16Rd => exact .of_act rfl (.read .crc16 rfl rspVal) fun _ => rfl
  | crc32Clr => exact .of_act rfl (.update .crc32 nofun rfl fun _ => 0) fun _ => rfl
  | crc32Feed b => exact .of_act rfl (.update .crc32 nofun rfl (crcFeed params.crc32Poly b 8)) fun _ => rfl
  | crc32Fin => exact .of_act rfl (.update .crc32 nofun rfl (crcFin params.crc32Poly params.crc32Fin)) fun _ => rfl
  | crc32Rd => exact .of_act rfl (.read .crc32 rfl rspVal) fun _ => rfl
  | crc16tClr => exact .of_act rfl (.update .crc16t nofun rfl fun _ => params.crc16tInit) fun _ => rfl
  | crc16tFeed b => exact .of_act rfl (.update .crc16t nofun rfl (t16Update params.crc16tPoly · b)) fun _ => rfl
  | crc16tRd => exact .of_act rfl (.read .crc16t rfl rspVal) fun _ => rfl
  | crc16tSet v => exact .of_act rfl (.update .crc16t nofun rfl fun _ => v) fun _ => rfl
  | h15Cor _ | h13Cor _ | h16Cor _ | golayChk _ | qrChk _ => exact .of_act rfl (.record rfl _ _ _ _) fun _ => rfl
  | rsLd i b =>
    exact .of_check spaceIndex_eq_none_iff_legalIndex12 (fun k => .update .rs nofun rfl (·.set k.val b k.isLt))
      fun _ => by rw [exec, execRsLd]; cases spaceIndex 12 i <;> rfl
  | rsRd i =>
    exact .of_check spaceIndex_eq_none_iff_legalIndex12 (fun k => .read .rs rfl (rspVal ·[k]))
      fun _ => by rw [exec, execRsRd]; cases spaceIndex 12 i <;> rfl
  | rsEnc => exact .of_act rfl (.update .rs nofun rfl (rsEncode params.gfPoly params.rsGen)) fun _ => rfl
  | rsSyn =>
    exact .of_act rfl (.read .rs rfl fun c => rspVal (rsSyndrome params.gfPoly c.toList 1 ++
      rsSyndrome params.gfPoly c.toList 2 ++ rsSyndrome params.gfPoly c.toList 3)) fun _ => rfl
  | rsDec =>
    exact .of_act rfl (.correct .rs nofun rfl rfl rfl (rsDecode params.gfPoly) RsResult.word RsResult.cat RsResult.pos
      (fun x => correctionCount x.cat) fun x => rspDec x.cat x.pos x.magnitude) fun _ => rfl
  | inLdb i b =>
    exact .of_check spaceIndex_eq_none_iff_legalIndex25 (fun k => .update .inBuf nofun rfl (memWrite · k b))
      fun _ => by rw [exec, execInLdb]; cases spaceIndex 25 i <;> rfl
  | inRdb i =>
    exact .of_check spaceIndex_eq_none_iff_legalIndex25 (fun k => .read .inBuf rfl fun v => rspVal (memRead v k))
      fun _ => by rw [exec, execInRdb]; cases spaceIndex 25 i <;> rfl
  | mxLdb i b =>
    exact .of_check spaceIndex_eq_none_iff_legalIndex25 (fun k => .update .mx nofun rfl (memWrite · k b))
      fun _ => by rw [exec, execMxLdb]; cases spaceIndex 25 i <;> rfl
  | mxRdb i =>
    exact .of_check spaceIndex_eq_none_iff_legalIndex25 (fun k => .read .mx rfl fun v => rspVal (memRead v k))
      fun _ => by rw [exec, execMxRdb]; cases spaceIndex 25 i <;> rfl
  | datLdb i b =>
    exact .of_check spaceIndex_eq_none_iff_legalIndex12 (fun k => .update .dat nofun rfl (memWrite · k b))
      fun _ => by rw [exec, execDatLdb]; cases spaceIndex 12 i <;> rfl
  | datRdb i =>
    exact .of_check spaceIndex_eq_none_iff_legalIndex12 (fun k => .read .dat rfl fun v => rspVal (memRead v k))
      fun _ => by rw [exec, execDatRdb]; cases spaceIndex 12 i <;> rfl
  | bptcDeint => exact .of_act rfl (.transfer .inBuf .mx nofun rfl rfl (deinterleave params)) fun _ => rfl
  | bptcRepair =>
    exact .of_act rfl (.correct .mx nofun rfl rfl rfl (repairLoop params) Repair.mx repairCategory Repair.pos Repair.cnt
      fun a => rspRep (repairCategory a) a.cnt a.pos) fun _ => rfl
  | bptcExtract => exact .of_act rfl (.transfer .mx .dat nofun rfl rfl extract) fun _ => rfl
  | bptcEnc => exact .of_act rfl (.transfer .dat .mx nofun rfl rfl (bptcEncode params)) fun _ => rfl
  | bptcInt => exact .of_act rfl (.transfer .mx .inBuf nofun rfl rfl (interleave params)) fun _ => rfl
  | bptcDm a =>
    exact .of_check spaceIndex_eq_none_iff_legalDmIndex (fun k => .answer (BitVec.ofNat 32 (romDm params k)))
      fun _ => by rw [exec, execBptcDm, execBptcDmWith]; cases spaceIndex 196 a <;> rfl
  | _ => exact .of_act rfl (.answer _) fun _ => rfl

/-- A command whose operand is outside its range raises `IllegalCommand` with cause 3 (R76, R107 (c)). -/
theorem exec_eq_raiseIllegal {i : Instr} (h : i.wellFormed = false) (s : State) :
    exec i s = s.raiseIllegal .operandRange := by
  obtain ⟨-, hexec⟩ | ⟨hi, -⟩ := behaves i
  · exact hexec s
  · exact absurd (h.symm.trans hi) nofun

/-- A command with its operands in range does one of the seven things (R30). -/
theorem exists_act_of_wellFormed {i : Instr} (h : i.wellFormed = true) :
    ∃ (f : Block → Block) (r : Block → Word), Act i f r ∧
      ∀ s : State, exec i s = s.reply (f s.block) (r s.block) := by
  obtain ⟨hi, -⟩ | ⟨-, hact⟩ := behaves i
  · exact absurd (hi.symm.trans h) nofun
  · exact hact

/-! ### What the seven shapes keep -/

section Acts
variable {i : Instr} {f : Block → Block} {r : Block → Word} {e : Element}

/-- An element that the command does not write keeps its value (R30). -/
theorem Act.get_eq (h : Act i f r) (he : writes e i = false) (b : Block) : (f b).get e = b.get e := by
  have hne : ∀ {g : Element}, writes g i = true → e ≠ g := by
    rintro g hg rfl
    exact absurd (he.symm.trans hg) nofun
  cases h with
  | answer | read => rfl
  | update _ _ hw | transfer _ _ _ _ hw | record hw => exact Block.get_set_of_ne _ (hne hw)
  | correct _ _ _ hw hws => rw [Block.get_set_of_ne _ (hne hws), Block.get_set_of_ne _ (hne hw)]
  | reset hi => subst hi; exact absurd (he.symm.trans (writes_reset e)) nofun

/-- A legal command other than `RESET` keeps the fault record (R41). -/
theorem Act.keeps_faultRecord (h : Act i f r) (hi : i ≠ .reset) (b : Block) :
    (f b).status.fault = b.status.fault ∧ (f b).status.ecode = b.status.ecode := by
  cases h with
  | answer | read | record | correct => exact ⟨rfl, rfl⟩
  | update _ hf | transfer _ _ hf => rw [Block.status_set_of_ne _ hf]; exact ⟨rfl, rfl⟩
  | reset h => exact absurd h hi

/-- An element that the command does not read has no influence on its answer or on the other elements (R30, R49). -/
theorem Act.no_influence (h : Act i f r) (he : reads e i = false) {a b : Block} (hab : sameExcept e a b) :
    r a = r b ∧ sameExcept e (f a) (f b) := by
  have hget : ∀ {g : Element}, reads g i = true → a.get g = b.get g := by
    intro g hg
    refine hab.get_eq ?_
    rintro rfl
    exact absurd (he.symm.trans hg) nofun
  have hstatus : Element.status ≠ e → a.status = b.status := hab.get_eq
  cases h with
  | answer => exact ⟨rfl, hab⟩
  | read _ hr v => exact ⟨congrArg v (hget hr), hab⟩
  | update _ _ _ v => exact ⟨rfl, hab.set fun hne => congrArg v (hab.get_eq hne)⟩
  | transfer _ _ _ hr _ v => exact ⟨rfl, hab.set fun _ => congrArg v (hget hr)⟩
  | record => exact ⟨rfl, hab.set fun hne => by rw [hstatus hne]⟩
  | correct _ _ hr =>
    beta_reduce
    rw [hget hr]
    exact ⟨rfl, (hab.set fun _ => rfl).set fun hne => by rw [hstatus hne]⟩
  | reset => exact ⟨rfl, fun e' _ => sameElement_iff.mpr rfl⟩

end Acts

/-! ### Illegal words -/

/-- The illegal words are those that do not decode and those whose operand is outside its range (R123). -/
theorem classify_eq_error_iff {w : Word} {c : IllegalCode} :
    classify w = .error c ↔
      decode w = .error c ∨ ∃ i, decode w = .ok i ∧ i.wellFormed = false ∧ c = .operandRange := by
  unfold classify
  cases decode w with
  | error c' => simp
  | ok i =>
    cases hi : i.wellFormed
    · simpa [hi] using eq_comm
    · simp [hi]

/-- A step on which an illegal word is accepted raises `IllegalCommand` with its cause (R383). -/
theorem step_of_classify_error {s : State} {rest : List PortInput} {w : Word} {c : IllegalCode}
    (h : s.inputs = { rst := false, cmd := some w } :: rest) (hc : classify w = .error c) :
    step s = State.raiseIllegal { s with inputs := rest } c := by
  obtain hd | ⟨i, hd, hi, rfl⟩ := classify_eq_error_iff.mp hc
  · exact step_of_decode_error h hd
  · rw [step_of_decode_ok h hd, exec_eq_raiseIllegal hi]

/-! ### The obligations -/

/-- Settles O10: an illegal word records its cause as `recordIllegal` has it; of the seven things a legal command can do, only
the reset touches the record; and both resets leave the block of R50. -/
theorem faultRecordIsSticky : Obligations.FaultRecordIsSticky := by
  refine ⟨?illegal, ?legal, ?reset, ?pin⟩
  case illegal =>
    intro s t w rest c hs hc hstep
    rw [step_of_classify_error hs hc, State.raiseIllegal_next_iff] at hstep
    subst hstep
    refine ⟨rfl, fun hf => ?_, fun hf => ?_⟩
    · simp [hf]
    · cases c <;> simp [hf]
  case legal =>
    intro i s t hi hne hexec
    obtain ⟨f, r, hact, h⟩ := exists_act_of_wellFormed hi
    rw [h s, State.reply_next_iff] at hexec
    subst hexec
    exact hact.keeps_faultRecord hne s.block
  case reset =>
    intro s t hexec
    cases hexec
    exact ⟨rfl, rfl⟩
  case pin =>
    intro s t c rest hs hstep
    rw [step_of_rst hs] at hstep
    cases hstep
    exact ⟨rfl, rfl⟩

/-- Settles O16: an illegal command writes the fault record alone, and a legal one keeps what it does not write. -/
theorem onlyListedCommandsWriteAnElement : Obligations.OnlyListedCommandsWriteAnElement := by
  intro e i s t he hexec
  obtain ⟨-, h⟩ | ⟨-, f, r, hact, h⟩ := behaves i
  · rw [h s, State.raiseIllegal_next_iff] at hexec
    subst hexec
    exact ⟨rfl, fun hne => sameElement_iff.mpr (Block.get_set_of_ne (f := .status) _ hne), fun _ => ⟨rfl, rfl, rfl⟩⟩
  · rw [h s, State.reply_next_iff] at hexec
    subst hexec
    have hkept := hact.get_eq he s.block
    refine ⟨rfl, fun _ => sameElement_iff.mpr hkept, ?_⟩
    rintro rfl
    have hstatus : (f s.block).status = s.block.status := hkept
    simp only [hstatus, and_self]

/-- Settles O17: an illegal command answers the same word in every state and writes `STATUS` from `STATUS` alone; for a legal
one the seven shapes show it. -/
theorem unreadElementHasNoInfluence : Obligations.UnreadElementHasNoInfluence := by
  intro e i s s' he hs
  obtain ⟨-, h⟩ | ⟨-, f, r, hact, h⟩ := behaves i
  · have hstatus : Element.status ≠ e → s.block.status = s'.block.status := hs.get_eq
    exact ⟨_, _, h s, h s', rfl, hs.set (f := .status) fun hne => by rw [hstatus hne]⟩
  · obtain ⟨hr, hf⟩ := hact.no_influence he hs
    exact ⟨_, _, h s, h s', by simp only [hr], hf⟩

/-- Settles O13: the block of R50, with the CRC-16T start value and the twelve bytes written out. -/
theorem resetLeavesTheListedValues : Obligations.ResetLeavesTheListedValues := rfl

/-- Settles O15: the base case of `everyStepKeepsStatusSound`. -/
theorem statusIsSoundAfterReset : Obligations.StatusIsSoundAfterReset := by
  unfold Obligations.StatusIsSoundAfterReset
  decide

end Sys2Proof.Machine

/-! What a step answers (`20_memory.md` R76, R80; `30_encoding.md` R107, R120, R123): a step on which a word is accepted gives
the response of an illegal or of a legal command, by `classify`, and any other step gives none. -/

namespace Sys2Proof.Machine

/-- R383 as the statements write it, with the cause code in place of the cause. -/
theorem State.raiseIllegal_eq_illegalNext (s : State) (c : IllegalCode) :
    s.raiseIllegal c = illegalNext s (causeCode c) := rfl

/-- The legal words are those that decode to a command with its operands in range (R123). -/
theorem classify_eq_ok_iff {w : Word} {i : Instr} :
    classify w = .ok i ↔ decode w = .ok i ∧ i.wellFormed = true := by
  unfold classify
  cases decode w with
  | error c => simp
  | ok j =>
    have hwf : j = i → i.wellFormed = j.wellFormed := fun h => h ▸ rfl
    cases hj : j.wellFormed <;> simpa [hj] using hwf

section Step
variable {s : State} {rest : List PortInput} {w : Word}

/-- A step on which a legal word is accepted completes its command (R80, R120). -/
theorem step_of_classify_ok {i : Instr} (h : s.inputs = { rst := false, cmd := some w } :: rest)
    (hc : classify w = .ok i) : ∃ (b : Block) (v : Word), step s = State.reply { s with inputs := rest } b v := by
  obtain ⟨hd, hi⟩ := classify_eq_ok_iff.mp hc
  obtain ⟨f, r, -, hexec⟩ := exists_act_of_wellFormed hi
  exact ⟨_, _, (step_of_decode_ok h hd).trans (hexec _)⟩

/-- A step on which a word is accepted consumes its presentation and answers, an error for the illegal words alone
(R120, R383). -/
theorem step_of_command (h : s.inputs = { rst := false, cmd := some w } :: rest) :
    ∃ (b : Block) (r : Response), step s = .next { block := b, inputs := rest, out := some r } ∧
      (r.err = true ↔ ∃ c, classify w = .error c) ∧ (r.err = true → r.rsp = 0) := by
  cases hc : classify w with
  | error c => exact ⟨_, _, step_of_classify_error h hc, by simp, fun _ => rfl⟩
  | ok i =>
    obtain ⟨b, v, hstep⟩ := step_of_classify_ok h hc
    exact ⟨b, _, hstep, by simp, nofun⟩

/-- A step on which no word is accepted consumes what was presented, if anything, and does not answer (R391, R421, R428). -/
theorem step_of_no_command (h : ∀ w rest, s.inputs ≠ { rst := false, cmd := some w } :: rest) :
    ∃ b : Block, step s = .next { block := b, inputs := s.inputs.tail, out := none } := by
  rcases hs : s.inputs with _ | ⟨⟨_ | _, _ | w⟩, rest⟩
  case nil => exact ⟨s.block, by rw [step_of_inputs_nil hs, State.idle, hs]; rfl⟩
  case cons.false.none => exact ⟨s.block, step_of_wait hs⟩
  case cons.false.some => exact absurd hs (h w rest)
  case cons.true.none => exact ⟨Block.reset, step_of_rst hs⟩
  case cons.true.some => exact ⟨Block.reset, step_of_rst hs⟩

end Step

/-! ### The obligations -/

/-- Settles O7: a command outside its operand range raises `IllegalCommand` with the cause whose code is 3. -/
theorem outOfRangeOperandIsIllegal : Obligations.OutOfRangeOperandIsIllegal := by
  intro i s hi
  rw [exec_eq_raiseIllegal hi, State.raiseIllegal_eq_illegalNext, causeCode_operandRange]

/-- Settles O9: by whether the host presents a command that is accepted. -/
theorem oneResponsePerAcceptedCommand : Obligations.OneResponsePerAcceptedCommand := by
  intro s t hstep
  by_cases hcmd : ∃ w rest, s.inputs = { rst := false, cmd := some w } :: rest
  case pos =>
    obtain ⟨w, rest, hs⟩ := hcmd
    obtain ⟨b, r, hnext, herr, hrsp⟩ := step_of_command hs
    cases hnext.symm.trans hstep
    refine ⟨by rw [hs]; rfl, fun w' rest' hs' => ?_, fun hno => absurd hs (hno w rest)⟩
    cases hs.symm.trans hs'
    exact ⟨r, rfl, herr, hrsp⟩
  case neg =>
    have hno : ∀ w rest, s.inputs ≠ { rst := false, cmd := some w } :: rest := fun w rest hs => hcmd ⟨w, rest, hs⟩
    obtain ⟨b, hnext⟩ := step_of_no_command hno
    cases hnext.symm.trans hstep
    exact ⟨rfl, fun w rest hs => absurd hs (hno w rest), fun _ => rfl⟩

end Sys2Proof.Machine

/-! The round trips of the decoder and the encoder (`30_encoding.md` R101 to R108, R123). Each format's `arg` field is taken
apart and put together once; the 57 commands and the 57 rows are then gone through by format. -/

namespace Sys2Proof.Machine

open Sys2Proof.Laws

/-! ### The operand formats of R102, in both directions -/

@[simp] theorem argW_encW {k : Nat} (v : BitVec k) (hk : k ≤ 24) : argW k (encW v) = v := by
  rw [argW, encW, BitVec.extractLsb'_setWidth_of_le (by omega), BitVec.extractLsb'_eq_self]

@[simp] theorem argX_encXB {j : Nat} (x : BitVec j) (b : Byte) (hj : j ≤ 16) : argX j (encXB x b) = x := by
  rw [argX, encXB, BitVec.extractLsb'_setWidth_of_le (by omega), BitVec.extractLsb'_append_eq_left]

@[simp] theorem argB_encXB {j : Nat} (x : BitVec j) (b : Byte) : argB (encXB x b) = b := by
  rw [argB, encXB, BitVec.extractLsb'_setWidth_of_le (by omega), BitVec.extractLsb'_append_eq_right]

/-- Format `X(j)` is format `XB(j)` with the byte 0 (R102). -/
theorem encX_eq_encXB {j : Nat} (x : BitVec j) : encX x = encXB x 0#8 := rfl

@[simp] theorem argX_encX {j : Nat} (x : BitVec j) (hj : j ≤ 16) : argX j (encX x) = x := by
  rw [encX_eq_encXB, argX_encXB x 0#8 hj]

/-- With the reserved bits 0, a bit outside the operands is 0 (R104). -/
theorem getLsbD_of_reserved {m arg : BitVec 24} (h : arg &&& ~~~m = 0#24) {i : Nat} (hi : m.getLsbD i = false) :
    arg.getLsbD i = false := by
  by_cases h24 : i < 24
  · have hbit : (arg &&& ~~~m).getLsbD i = false := by rw [h, BitVec.getLsbD_zero]
    simpa only [BitVec.getLsbD_and, BitVec.getLsbD_not, h24, hi, decide_true, Bool.not_false, Bool.and_true] using hbit
  · exact BitVec.getLsbD_of_ge _ _ (Nat.not_lt.mp h24)

/-- Format `Z` reserves the whole argument (R102). -/
@[simp] theorem and_not_operandBits_z (arg : BitVec 24) : arg &&& ~~~(operandBits .z) = arg := by
  rw [operandBits, BitVec.not_zero, BitVec.and_allOnes]

theorem encW_argW {k : Nat} (hk : k ≤ 24) {arg : BitVec 24} (h : arg &&& ~~~(operandBits (.w k)) = 0#24) :
    encW (argW k arg) = arg := by
  apply BitVec.eq_of_getLsbD_eq
  intro i hi
  simp only [encW, argW, BitVec.getLsbD_setWidth, BitVec.getLsbD_extractLsb']
  by_cases hik : i < k
  · simp [hi, hik]
  · simp [hik, getLsbD_of_reserved h (i := i) (by simpa [getLsbD_operandBits_w k i hk] using hik)]

theorem encXB_argX_argB {j : Nat} (hj : j ≤ 16) {arg : BitVec 24} (h : arg &&& ~~~(operandBits (.xb j)) = 0#24) :
    encXB (argX j arg) (argB arg) = arg := by
  apply BitVec.eq_of_getLsbD_eq
  intro i hi
  simp only [encXB, argX, argB, BitVec.getLsbD_setWidth, BitVec.getLsbD_append, BitVec.getLsbD_extractLsb']
  by_cases hb : i < 8
  · simp [hi, hb]
  by_cases hx : i < 8 + j
  · simp [hi, hb, show i - 8 < j by omega, Nat.add_sub_cancel' (Nat.not_lt.mp hb)]
  · simp [hb, show ¬ i - 8 < j by omega,
      getLsbD_of_reserved h (i := i) (by simpa [getLsbD_operandBits_xb j i hj] using hx)]

theorem encX_argX {j : Nat} (hj : j ≤ 16) {arg : BitVec 24} (h : arg &&& ~~~(operandBits (.x j)) = 0#24) :
    encX (argX j arg) = arg := by
  apply BitVec.eq_of_getLsbD_eq
  intro i hi
  simp only [encX, argX, BitVec.getLsbD_setWidth, BitVec.getLsbD_append, BitVec.getLsbD_extractLsb']
  have hzero (hi : ¬ (8 ≤ i ∧ i < 8 + j)) : arg.getLsbD i = false :=
    getLsbD_of_reserved h (by simpa [getLsbD_operandBits_x j i hj] using hi)
  by_cases hb : i < 8
  · simp [hb, hzero (by omega)]
  by_cases hx : i < 8 + j
  · simp [hi, hb, show i - 8 < j by omega, Nat.add_sub_cancel' (Nat.not_lt.mp hb)]
  · simp [hb, show ¬ i - 8 < j by omega, hzero (by omega)]

/-! ### The row that a word selects -/

/-- A word is made of its opcode byte and its argument (R101). -/
theorem commandWord_opByte_argField (w : Word) : commandWord (opByte w) (argField w) = w := by
  rw [commandWord, opByte, argField, BitVec.extractLsb'_append_extractLsb'_eq_extractLsb' (Nat.zero_add 24).symm]
  exact BitVec.extractLsb'_eq_self

/-- A row selects the words with its opcode byte whose reserved bits are 0 (R104, R106). -/
theorem and_rowMask_eq_rowMatch_iff {w : Word} {r : Row} :
    w &&& rowMask r = rowMatch r ↔ opByte w = r.op ∧ argField w &&& ~~~(operandBits r.format) = 0#24 := by
  have hmask : w &&& rowMask r = commandWord (opByte w) (argField w &&& ~~~(operandBits r.format)) := by
    rw [← commandWord_opByte_argField w, opByte_commandWord, argField_commandWord, commandWord, rowMask,
      BitVec.and_append, commandWord]
    congr 1
    exact BitVec.and_allOnes
  rw [hmask, show rowMatch r = commandWord r.op 0#24 from rfl]
  constructor
  · intro h
    refine ⟨?_, ?_⟩
    · simpa only [opByte_commandWord] using congrArg opByte h
    · simpa only [argField_commandWord] using congrArg argField h
  · rintro ⟨hop, harg⟩
    rw [hop, harg]

/-- No two rows have the same opcode byte (R106). -/
theorem nodup_rows_op : (rows.map Row.op).Nodup := by decide

/-- The row of an opcode byte is the only one with it. -/
theorem rowOf_eq_some_iff {op : BitVec 8} {r : Row} : rowOf op = some r ↔ r ∈ rows ∧ r.op = op := by
  constructor
  · intro h
    exact ⟨List.mem_of_find?_eq_some h, by simpa using List.find?_some h⟩
  · rintro ⟨hr, rfl⟩
    cases h : rowOf r.op with
    | none => simpa using List.find?_eq_none.mp h r hr
    | some r' =>
      have hop : r'.op = r.op := by simpa using List.find?_some h
      rw [List.inj_on_of_nodup_map nodup_rows_op (List.mem_of_find?_eq_some h) hr hop]

/-- A word with an opcode byte of no row (R123, cause 1). -/
theorem decode_of_no_row {w : Word} (h : ∀ r ∈ rows, r.op ≠ opByte w) : decode w = .error .unknownOpcode := by
  have hnone : rowOf (opByte w) = none := List.find?_eq_none.mpr fun r hr => by simpa using h r hr
  simp [decode, hnone]

/-- A word with the opcode byte of a row (R123, cause 2). -/
theorem decode_of_row {w : Word} {r : Row} (hr : r ∈ rows) (hop : r.op = opByte w) :
    decode w = if w &&& rowMask r = rowMatch r then .ok (r.build (argField w)) else .error .reservedBits := by
  have hsome : rowOf (opByte w) = some r := rowOf_eq_some_iff.mpr ⟨hr, hop⟩
  simp [decode, hsome]

/-- The words that decode are those that a row selects, and that row builds the command. -/
theorem decode_eq_ok_iff {w : Word} {i : Instr} :
    decode w = .ok i ↔ ∃ r ∈ rows, w &&& rowMask r = rowMatch r ∧ r.build (argField w) = i := by
  constructor
  · intro h
    by_cases hrow : ∃ r ∈ rows, r.op = opByte w
    · obtain ⟨r, hr, hop⟩ := hrow
      rw [decode_of_row hr hop] at h
      split at h
      · next hsel => exact ⟨r, hr, hsel, by simpa using h⟩
      · cases h
    · push Not at hrow
      exact absurd ((decode_of_no_row hrow).symm.trans h) nofun
  · rintro ⟨r, hr, hsel, rfl⟩
    rw [decode_of_row hr (and_rowMask_eq_rowMatch_iff.mp hsel).1.symm, if_pos hsel]

/-! ### From a command to its word and back -/

/-- The word of a row's opcode byte and an argument with the reserved bits 0 decodes by that row. -/
theorem decode_commandWord {r : Row} {arg : BitVec 24} (hr : rowOf r.op = some r)
    (harg : arg &&& ~~~(operandBits r.format) = 0#24) : decode (commandWord r.op arg) = .ok (r.build arg) := by
  refine decode_eq_ok_iff.mpr ⟨r, (rowOf_eq_some_iff.mp hr).1, and_rowMask_eq_rowMatch_iff.mpr ?_, ?_⟩
  · rw [opByte_commandWord, argField_commandWord]
    exact ⟨rfl, harg⟩
  · rw [argField_commandWord]

theorem decode_commandWord_z {op : BitVec 8} {i : Instr} (hr : rowOf op = some ⟨op, .z, fun _ => i⟩) :
    decode (commandWord op 0) = .ok i :=
  decode_commandWord (r := ⟨op, .z, fun _ => i⟩) hr (and_not_operandBits_z 0)

theorem decode_commandWord_w {op : BitVec 8} {k : Nat} {mk : BitVec k → Instr} (v : BitVec k) (hk : k ≤ 24)
    (hr : rowOf op = some ⟨op, .w k, fun a => mk (argW k a)⟩) : decode (commandWord op (encW v)) = .ok (mk v) := by
  have h := decode_commandWord (r := ⟨op, .w k, fun a => mk (argW k a)⟩) hr (encW_reserved v hk)
  simpa only [argW_encW v hk] using h

theorem decode_commandWord_xb {op : BitVec 8} {j : Nat} {mk : BitVec j → Byte → Instr} (x : BitVec j) (b : Byte)
    (hj : j ≤ 16) (hr : rowOf op = some ⟨op, .xb j, fun a => mk (argX j a) (argB a)⟩) :
    decode (commandWord op (encXB x b)) = .ok (mk x b) := by
  have h := decode_commandWord (r := ⟨op, .xb j, fun a => mk (argX j a) (argB a)⟩) hr (encXB_reserved x b hj)
  simpa only [argX_encXB x b hj, argB_encXB] using h

theorem decode_commandWord_x {op : BitVec 8} {j : Nat} {mk : BitVec j → Instr} (x : BitVec j) (hj : j ≤ 16)
    (hr : rowOf op = some ⟨op, .x j, fun a => mk (argX j a)⟩) : decode (commandWord op (encX x)) = .ok (mk x) := by
  have h := decode_commandWord (r := ⟨op, .x j, fun a => mk (argX j a)⟩) hr (encX_reserved x hj)
  simpa only [argX_encX x hj] using h

/-- The word of a command decodes to it, by the command's format (R102, R106). -/
theorem decode_encode (i : Instr) : decode (encode i) = .ok i := by
  cases i with
  | crc16Feed v | crc32Feed v | crc16tFeed v | crc16tSet v | crc16tTab v | h15Par v | h15Chk v | h15Pos v | h15Cor v
  | h13Par v | h13Chk v | h13Pos v | h13Cor v | h16Par v | h16Chk v | h16Pos v | h16Cor v | golayPar v | golayChk v
  | qrPar v | qrChk v | qrEnc v | rsExp v | rsLog v | bptcDm v => exact decode_commandWord_w v (by decide) rfl
  | crc9Feed x b | rsLd x b | rsMul x b | inLdb x b | mxLdb x b | datLdb x b =>
    exact decode_commandWord_xb x b (by decide) rfl
  | rsRd x | inRdb x | mxRdb x | datRdb x => exact decode_commandWord_x x (by decide) rfl
  | _ => exact decode_commandWord_z rfl

/-! ### From a word to its command and back -/

/-- The command that a row builds from an argument with the reserved bits 0 has that row's word. -/
def RowEncodes (r : Row) : Prop :=
  ∀ arg : BitVec 24, arg &&& ~~~(operandBits r.format) = 0#24 → encode (r.build arg) = commandWord r.op arg

theorem RowEncodes.z {op : BitVec 8} {i : Instr} (h : encode i = commandWord op 0) :
    RowEncodes ⟨op, .z, fun _ => i⟩ := by
  intro arg harg
  have h0 : arg = 0#24 := (and_not_operandBits_z arg).symm.trans harg
  rw [h, h0]
  rfl

theorem RowEncodes.w {op : BitVec 8} {k : Nat} {mk : BitVec k → Instr}
    (h : ∀ v, encode (mk v) = commandWord op (encW v)) (hk : k ≤ 24 := by decide) :
    RowEncodes ⟨op, .w k, fun a => mk (argW k a)⟩ :=
  fun _ harg => (h _).trans (congrArg _ (encW_argW hk harg))

theorem RowEncodes.xb {op : BitVec 8} {j : Nat} {mk : BitVec j → Byte → Instr}
    (h : ∀ x b, encode (mk x b) = commandWord op (encXB x b)) (hj : j ≤ 16 := by decide) :
    RowEncodes ⟨op, .xb j, fun a => mk (argX j a) (argB a)⟩ :=
  fun _ harg => (h _ _).trans (congrArg _ (encXB_argX_argB hj harg))

theorem RowEncodes.x {op : BitVec 8} {j : Nat} {mk : BitVec j → Instr}
    (h : ∀ x, encode (mk x) = commandWord op (encX x)) (hj : j ≤ 16 := by decide) :
    RowEncodes ⟨op, .x j, fun a => mk (argX j a)⟩ :=
  fun _ harg => (h _).trans (congrArg _ (encX_argX hj harg))

theorem rowEncodes_rowsSysCrc : ∀ r ∈ rowsSysCrc, RowEncodes r :=
  List.forall_iff_forall_mem.mp
    ⟨.z rfl, .z rfl, .z rfl,
     .z rfl, .xb fun _ _ => rfl, .z rfl, .z rfl,
     .z rfl, .w fun _ => rfl, .z rfl, .z rfl,
     .z rfl, .w fun _ => rfl, .z rfl, .z rfl,
     .z rfl, .w fun _ => rfl, .z rfl, .w fun _ => rfl, .w fun _ => rfl⟩

theorem rowEncodes_rowsCodes : ∀ r ∈ rowsCodes, RowEncodes r :=
  List.forall_iff_forall_mem.mp
    ⟨.w fun _ => rfl, .w fun _ => rfl, .w fun _ => rfl, .w fun _ => rfl,
     .w fun _ => rfl, .w fun _ => rfl, .w fun _ => rfl, .w fun _ => rfl,
     .w fun _ => rfl, .w fun _ => rfl, .w fun _ => rfl, .w fun _ => rfl,
     .w fun _ => rfl, .w fun _ => rfl,
     .w fun _ => rfl, .w fun _ => rfl, .w fun _ => rfl⟩

theorem rowEncodes_rowsBuffers : ∀ r ∈ rowsBuffers, RowEncodes r :=
  List.forall_iff_forall_mem.mp
    ⟨.xb fun _ _ => rfl, .x fun _ => rfl, .z rfl, .z rfl, .z rfl,
     .xb fun _ _ => rfl, .w fun _ => rfl, .w fun _ => rfl,
     .xb fun _ _ => rfl, .x fun _ => rfl, .xb fun _ _ => rfl, .x fun _ => rfl, .xb fun _ _ => rfl, .x fun _ => rfl,
     .z rfl, .z rfl, .z rfl, .z rfl, .z rfl, .w fun _ => rfl⟩

/-- Every row of R106, unit by unit. -/
theorem rowEncodes_of_mem {r : Row} (hr : r ∈ rows) : RowEncodes r := by
  obtain h | h | h : r ∈ rowsSysCrc ∨ r ∈ rowsCodes ∨ r ∈ rowsBuffers := by simpa [rows] using hr
  · exact rowEncodes_rowsSysCrc r h
  · exact rowEncodes_rowsCodes r h
  · exact rowEncodes_rowsBuffers r h

/-- No bit of a decoded word is ignored: its row fixes the opcode byte, the reserved bits and, by `RowEncodes`, the
operands. -/
theorem encode_of_decode {w : Word} {i : Instr} (h : decode w = .ok i) : encode i = w := by
  obtain ⟨r, hr, hsel, rfl⟩ := decode_eq_ok_iff.mp h
  obtain ⟨hop, harg⟩ := and_rowMask_eq_rowMatch_iff.mp hsel
  rw [rowEncodes_of_mem hr _ harg, ← hop, commandWord_opByte_argField]

/-! ### The printed tables of R106 and R107 -/

/-- R106 prints the `match` and the `mask` of each row. -/
theorem printedRows_eq_map_rows : printedRows = rows.map fun r => (rowMatch r, rowMask r) := by decide

theorem hasOpcode_iff {w : Word} : hasOpcode w ↔ ∃ r ∈ rows, r.op = opByte w := by
  have hop (r : Row) : (rowMatch r).extractLsb' 24 8 = r.op := opByte_commandWord r.op 0#24
  simp [hasOpcode, printedRows_eq_map_rows, hop, opByte, eq_comm]

theorem selectsRow_iff {w : Word} : selectsRow w ↔ ∃ r ∈ rows, w &&& rowMask r = rowMatch r := by
  simp [selectsRow, printedRows_eq_map_rows]

theorem hasOpcode_of_selectsRow {w : Word} (h : selectsRow w) : hasOpcode w := by
  obtain ⟨r, hr, hsel⟩ := selectsRow_iff.mp h
  exact hasOpcode_iff.mpr ⟨r, hr, (and_rowMask_eq_rowMatch_iff.mp hsel).1.symm⟩

/-- The bytes of no row are those that R107 lists, over the 256 opcode bytes. -/
theorem not_mem_rows_op_iff (op : BitVec 8) : op ∉ rows.map Row.op ↔ listedIllegalOpcode op.toNat := by
  unfold listedIllegalOpcode
  revert op
  decide +kernel

theorem listedIllegalOpcode_iff {w : Word} : listedIllegalOpcode (w.extractLsb' 24 8).toNat ↔ ¬ hasOpcode w := by
  rw [← not_mem_rows_op_iff, hasOpcode_iff, List.mem_map, opByte]

/-! ### The outcome of the decoder, by the printed tables -/

theorem decode_of_not_hasOpcode {w : Word} (h : ¬ hasOpcode w) : decode w = .error .unknownOpcode :=
  decode_of_no_row fun r hr hop => h (hasOpcode_iff.mpr ⟨r, hr, hop⟩)

theorem decode_of_not_selectsRow {w : Word} (h : hasOpcode w) (hsel : ¬ selectsRow w) :
    decode w = .error .reservedBits := by
  obtain ⟨r, hr, hop⟩ := hasOpcode_iff.mp h
  rw [decode_of_row hr hop, if_neg fun hw => hsel (selectsRow_iff.mpr ⟨r, hr, hw⟩)]

theorem decode_of_selectsRow {w : Word} (h : selectsRow w) : ∃ i, decode w = .ok i := by
  obtain ⟨r, hr, hsel⟩ := selectsRow_iff.mp h
  exact ⟨_, decode_eq_ok_iff.mpr ⟨r, hr, hsel, rfl⟩⟩

/-! ### The range checks of R107 (c) -/

/-- The opcode bytes whose operands have a range check (R107 (c)). -/
def rangeCheckedOpcodes : List (BitVec 8) := [0x11, 0xA0, 0xA1, 0xB0, 0xB1, 0xB2, 0xB3, 0xB4, 0xB5, 0xBB]

/-- The range checks on the two fields of a word. -/
theorem outOfRange_commandWord {op : BitVec 8} {arg : BitVec 24} : outOfRange (commandWord op arg) ↔
    (op.toNat = 0x11 ∧ ((argX 4 arg).toNat = 0 ∨ 9 ≤ (argX 4 arg).toNat)) ∨
    ((op.toNat = 0xA0 ∨ op.toNat = 0xA1 ∨ op.toNat = 0xB4 ∨ op.toNat = 0xB5) ∧ 12 ≤ (argX 4 arg).toNat) ∨
    ((op.toNat = 0xB0 ∨ op.toNat = 0xB1 ∨ op.toNat = 0xB2 ∨ op.toNat = 0xB3) ∧ 25 ≤ (argX 5 arg).toNat) ∨
    (op.toNat = 0xBB ∧ 196 ≤ (argW 8 arg).toNat) := by
  have hop : (commandWord op arg).extractLsb' 24 8 = op := opByte_commandWord op arg
  have harg (start len : Nat) (h : start + len ≤ 24) :
      (commandWord op arg).extractLsb' start len = arg.extractLsb' start len :=
    BitVec.extractLsb'_append_eq_of_add_le h
  rw [outOfRange, hop, harg 8 4 (by decide), harg 8 5 (by decide), harg 0 8 (by decide)]
  rfl

theorem not_outOfRange_commandWord {op : BitVec 8} {arg : BitVec 24} (h : op ∉ rangeCheckedOpcodes) :
    ¬ outOfRange (commandWord op arg) := by
  rw [outOfRange_commandWord]
  contrapose! h
  simp only [rangeCheckedOpcodes, List.mem_cons, List.not_mem_nil, or_false]
  bv_omega

theorem legalFeedCount_eq_false_iff {n : BitVec 4} : legalFeedCount n = false ↔ n.toNat = 0 ∨ 9 ≤ n.toNat := by
  rw [legalFeedCount, decide_eq_false_iff_not]
  omega

theorem legalIndex12_eq_false_iff {i : BitVec 4} : legalIndex12 i = false ↔ 12 ≤ i.toNat := by
  rw [legalIndex12, decide_eq_false_iff_not, Nat.not_le, Nat.lt_iff_add_one_le]

theorem legalIndex25_eq_false_iff {i : BitVec 5} : legalIndex25 i = false ↔ 25 ≤ i.toNat := by
  rw [legalIndex25, decide_eq_false_iff_not, Nat.not_le, Nat.lt_iff_add_one_le]

theorem legalDmIndex_eq_false_iff {a : Byte} : legalDmIndex a = false ↔ 196 ≤ a.toNat := by
  rw [legalDmIndex, decide_eq_false_iff_not, Nat.not_le, Nat.lt_iff_add_one_le]

/-- A command is outside its range exactly if its word is. -/
theorem outOfRange_encode_iff (i : Instr) : outOfRange (encode i) ↔ i.wellFormed = false := by
  cases i with
  | crc9Feed n b => simp [encode, outOfRange_commandWord, Instr.wellFormed, legalFeedCount_eq_false_iff]
  | rsLd i b | datLdb i b | rsRd i | datRdb i =>
    simp [encode, outOfRange_commandWord, Instr.wellFormed, legalIndex12_eq_false_iff]
  | inLdb i b | mxLdb i b | inRdb i | mxRdb i =>
    simp [encode, outOfRange_commandWord, Instr.wellFormed, legalIndex25_eq_false_iff]
  | bptcDm a => simp [encode, outOfRange_commandWord, Instr.wellFormed, legalDmIndex_eq_false_iff]
  | _ => exact iff_of_false (not_outOfRange_commandWord (by decide)) nofun

/-! ### The words that R106 prints -/

theorem toNat_commandWord (op : BitVec 8) (arg : BitVec 24) :
    (commandWord op arg).toNat = op.toNat * 2 ^ 24 + arg.toNat := by
  rw [commandWord, BitVec.toNat_append, ← Nat.shiftLeft_add_eq_or_of_lt arg.isLt, Nat.shiftLeft_eq]

theorem toNat_encW {k : Nat} (v : BitVec k) (hk : k ≤ 24) : (encW v).toNat = v.toNat :=
  BitVec.toNat_setWidth_of_le hk

theorem toNat_encXB {j : Nat} (x : BitVec j) (b : Byte) (hj : j ≤ 16) :
    (encXB x b).toNat = x.toNat * 2 ^ 8 + b.toNat := by
  rw [encXB, BitVec.toNat_setWidth_of_le (by omega), BitVec.toNat_append, ← Nat.shiftLeft_add_eq_or_of_lt b.isLt,
    Nat.shiftLeft_eq]

theorem toNat_encX {j : Nat} (x : BitVec j) (hj : j ≤ 16) : (encX x).toNat = x.toNat * 2 ^ 8 := by
  rw [encX_eq_encXB, toNat_encXB x 0#8 hj, BitVec.toNat_zero, Nat.add_zero]

theorem toNat_commandWord_w {k : Nat} (op : BitVec 8) (v : BitVec k) (hk : k ≤ 24 := by decide) :
    (commandWord op (encW v)).toNat = op.toNat * 2 ^ 24 + v.toNat := by
  rw [toNat_commandWord, toNat_encW v hk]

theorem toNat_commandWord_xb {j : Nat} (op : BitVec 8) (x : BitVec j) (b : Byte) (hj : j ≤ 16 := by decide) :
    (commandWord op (encXB x b)).toNat = op.toNat * 2 ^ 24 + x.toNat * 2 ^ 8 + b.toNat := by
  rw [toNat_commandWord, toNat_encXB x b hj, Nat.add_assoc]

theorem toNat_commandWord_x {j : Nat} (op : BitVec 8) (x : BitVec j) (hj : j ≤ 16 := by decide) :
    (commandWord op (encX x)).toNat = op.toNat * 2 ^ 24 + x.toNat * 2 ^ 8 := by
  rw [toNat_commandWord, toNat_encX x hj]

/-- The word of a command is the one that its row prints, by the command's format (R102, R106). -/
theorem toNat_encode (i : Instr) : (encode i).toNat = printedWord i := by
  cases i with
  | crc16Feed v | crc32Feed v | crc16tFeed v | crc16tSet v | crc16tTab v | h15Par v | h15Chk v | h15Pos v | h15Cor v
  | h13Par v | h13Chk v | h13Pos v | h13Cor v | h16Par v | h16Chk v | h16Pos v | h16Cor v | golayPar v | golayChk v
  | qrPar v | qrChk v | qrEnc v | rsExp v | rsLog v | bptcDm v => exact toNat_commandWord_w _ v
  | crc9Feed x b | rsLd x b | rsMul x b | inLdb x b | mxLdb x b | datLdb x b => exact toNat_commandWord_xb _ x b
  | rsRd x | inRdb x | mxRdb x | datRdb x => exact toNat_commandWord_x _ x
  | _ => rfl

/-- The printed number is the word itself. -/
theorem ofNat_printedWord (i : Instr) : BitVec.ofNat 32 (printedWord i) = encode i := by
  rw [← toNat_encode, BitVec.ofNat_toNat, BitVec.setWidth_eq]

/-! ### The obligations -/

/-- Settles O1: `decode` gives the command back, and `classify` adds the range check alone. -/
theorem encodedCommandDecodesToItself : Obligations.EncodedCommandDecodesToItself := by
  intro i
  have hdec := decode_encode i
  exact ⟨hdec, fun hi => classify_eq_ok_iff.mpr ⟨hdec, hi⟩,
    fun hi => classify_eq_error_iff.mpr (.inr ⟨i, hdec, hi, rfl⟩)⟩

/-- Settles O2: by the row that selects the word. -/
theorem decodedWordIsTheCommandsWord : Obligations.DecodedWordIsTheCommandsWord :=
  fun _ _ => encode_of_decode

/-- Settles O3: a word has no row's opcode byte, or has one and is not selected, or is selected; in the last case it is the
word of a command, whose range check it fails exactly if the command is ill-formed. -/
theorem illegalWordsAreThoseTheRuleLists : Obligations.IllegalWordsAreThoseTheRuleLists := by
  intro w
  simp only [listedIllegalOpcode_iff, iff_self, and_true, classify_eq_error_iff]
  by_cases hop : hasOpcode w
  case neg =>
    have hsel : ¬ selectsRow w := mt hasOpcode_of_selectsRow hop
    simp [decode_of_not_hasOpcode hop, hop, hsel]
  by_cases hsel : selectsRow w
  case neg => simp [decode_of_not_selectsRow hop hsel, hop, hsel]
  obtain ⟨i, hdec⟩ := decode_of_selectsRow hsel
  have hrange : outOfRange w ↔ i.wellFormed = false := by rw [← encode_of_decode hdec, outOfRange_encode_iff]
  simp [hdec, hop, hsel, hrange]

/-- Settles O4: the printed number of a command is its word, which decodes to it; the ten vectors are evaluated. -/
theorem printedWordsDecode : Obligations.PrintedWordsDecode := by
  refine ⟨fun i => ⟨toNat_encode i, ?_⟩, rfl, rfl, rfl, rfl, rfl, rfl, rfl, rfl, rfl, rfl⟩
  rw [ofNat_printedWord, decode_encode]

end Sys2Proof.Machine

/-! The bit and byte primitives, the SYS commands and the byte access commands of the buffers (`40_bits_sys_buffers.md` R140 to
R153). What `memRead` and `memWrite` do to the bits is said once for a buffer of any length, and what each command does with a
legal index is one equation; the statements about the buffers are read off these two. -/

namespace Sys2Proof.Machine

/-! ### Bytes and bit sequences (R140, R141) -/

theorem length_byteBits (y : Byte) : (byteBits y).length = 8 := by rw [byteBits, List.length_map, List.length_range]

theorem getElem_byteBits {y : Byte} {k : Nat} (hk : k < (byteBits y).length) : (byteBits y)[k] = bitAt y k := by
  simp only [byteBits, List.getElem_map, List.getElem_range]

theorem bitAt_byteOfBits (bits : List Bool) {k : Nat} (hk : k < 8) : bitAt (byteOfBits bits) k = bits.getD k false :=
  bitAt_ofBits_lt _ hk

/-- The byte at the head of a bit sequence that begins with the bits of `y` is `y`. -/
theorem byteOfBits_byteBits_append (y : Byte) (bits : List Bool) : byteOfBits (byteBits y ++ bits) = y := by
  apply bitAt_ext
  intro k hk
  have hlen : k < (byteBits y).length := by rwa [length_byteBits]
  rw [bitAt_byteOfBits _ hk, List.getD_append _ _ _ _ hlen, List.getD_eq_getElem _ _ hlen, getElem_byteBits]

/-- The byte made of a bit sequence holds its first eight bits, the missing ones as 0 (R141). -/
theorem byteBits_byteOfBits (bits : List Bool) :
    byteBits (byteOfBits bits) = bits.take 8 ++ List.replicate (8 - bits.length) false := by
  have hlen : (bits.take 8 ++ List.replicate (8 - bits.length) false).length = 8 := by
    rw [List.length_append, List.length_take, List.length_replicate]; omega
  refine List.ext_getElem (by rw [length_byteBits, hlen]) fun k hk _ => ?_
  rw [length_byteBits] at hk
  rw [getElem_byteBits, bitAt_byteOfBits _ hk]
  by_cases hin : k < bits.length
  · rw [List.getD_eq_getElem _ _ hin, List.getElem_append_left (by simp [hk, hin]), List.getElem_take]
  · rw [List.getD_eq_default _ _ (by omega), List.getElem_append_right (by simp; omega), List.getElem_replicate]

theorem bytesFromBits_nil : bytesFromBits [] = [] := rfl

/-- `bytes_from_bits` makes one byte of the first eight bits and goes on with the rest (R141). -/
theorem bytesFromBits_of_ne_nil {bits : List Bool} (h : bits ≠ []) :
    bytesFromBits bits = byteOfBits bits :: bytesFromBits (bits.drop 8) := by
  have hpos := List.length_pos_iff.mpr h
  have hcount : (bits.length + 7) / 8 = ((bits.drop 8).length + 7) / 8 + 1 := by rw [List.length_drop]; omega
  rw [bytesFromBits, bytesFromBits, hcount, List.range_succ_eq_map, List.map_cons, List.map_map]
  congr 1
  refine List.map_congr_left fun i _ => ?_
  rw [Function.comp_apply, List.drop_drop, Nat.succ_eq_add_one, Nat.mul_add, Nat.mul_one, Nat.add_comm]

/-- R142, first half. -/
theorem bytesFromBits_bitsFromBytes (ys : List Byte) : bytesFromBits (bitsFromBytes ys) = ys := by
  induction ys with
  | nil => exact bytesFromBits_nil
  | cons y ys ih =>
    have hne : byteBits y ++ bitsFromBytes ys ≠ [] :=
      List.append_ne_nil_of_left_ne_nil (List.ne_nil_of_length_pos (by rw [length_byteBits]; decide)) _
    rw [bitsFromBytes, bytesFromBits_of_ne_nil hne, byteOfBits_byteBits_append, List.drop_left' (length_byteBits y), ih]

/-- R142, second half: eight bits at a time, the last byte being the padded one. -/
theorem bitsFromBytes_bytesFromBits (bits : List Bool) :
    bitsFromBytes (bytesFromBits bits) = bits ++ List.replicate ((8 - bits.length % 8) % 8) false := by
  by_cases hnil : bits = []
  · rw [hnil]; rfl
  have hpos := List.length_pos_iff.mpr hnil
  rw [bytesFromBits_of_ne_nil hnil, bitsFromBytes, byteBits_byteOfBits]
  by_cases hlast : bits.length < 8
  · have hpad : 8 - bits.length = (8 - bits.length % 8) % 8 := by omega
    rw [List.drop_eq_nil_of_le hlast.le, bytesFromBits_nil, bitsFromBytes, List.append_nil,
      List.take_of_length_le hlast.le, hpad]
  · have hfull : 8 - bits.length = 0 := by omega
    have hpad : (bits.length - 8) % 8 = bits.length % 8 := by omega
    rw [bitsFromBytes_bytesFromBits (bits.drop 8), List.length_drop, hpad, hfull, List.replicate_zero, List.append_nil,
      ← List.append_assoc, List.take_append_drop]
termination_by bits.length
decreasing_by rw [List.length_drop]; omega

/-! ### One byte of a buffer (R72) -/

section Buffer
variable {n : Nat} (buf : BitVec n) (i : Nat) (b : Byte)

theorem getMsbD_memWrite {j : Nat} (hj : j < n) : (memWrite buf i b).getMsbD j =
    if 8 * i ≤ j ∧ j ≤ 8 * i + 7 then b.getLsbD (7 - (j - 8 * i)) else buf.getMsbD j := by
  have h := bitAt_memWrite buf i b j hj
  simp only [bitAt, ← Nat.lt_succ_iff (n := 8 * i + 7)] at h ⊢
  rw [h]
  split
  · have hbit : j - 8 * i < 8 := by omega
    rw [BitVec.getMsbD_eq_getLsbD, decide_eq_true hbit, Bool.true_and]
  · rfl

theorem getLsbD_memRead {k : Nat} (hk : k < 8) : (memRead buf i).getLsbD (7 - k) = buf.getMsbD (8 * i + k) := by
  have h := bitAt_memRead buf i k
  rw [bitAt, BitVec.getMsbD_eq_getLsbD, decide_eq_true hk, Bool.true_and, Bool.true_and] at h
  exact h

/-- A bit beyond the end of the buffer is answered as 0 (R72). -/
theorem getLsbD_memRead_of_end {k : Nat} (hk : k < 8) :
    (memRead buf i).getLsbD (7 - k) = (decide (8 * i + k < n) && buf.getMsbD (8 * i + k)) := by
  rw [getLsbD_memRead buf i hk]
  by_cases hin : 8 * i + k < n
  · rw [decide_eq_true hin, Bool.true_and]
  · rw [decide_eq_false hin, Bool.false_and, BitVec.getMsbD_of_ge _ _ (Nat.not_lt.mp hin)]

/-- A byte read where it was written has the bits written, as far as the buffer goes. -/
theorem bitAt_memRead_memWrite {k : Nat} (hk : k < 8) :
    bitAt (memRead (memWrite buf i b) i) k = (decide (8 * i + k < n) && bitAt b k) := by
  rw [bitAt_memRead, decide_eq_true hk, Bool.true_and]
  by_cases hin : 8 * i + k < n
  · rw [bitAt_memWrite buf i b _ hin, if_pos (by omega), Nat.add_sub_cancel_left, decide_eq_true hin, Bool.true_and]
  · rw [bitAt_of_ge _ (Nat.not_lt.mp hin), decide_eq_false hin, Bool.false_and]

/-- A byte that lies inside the buffer is read as it was written. -/
theorem memRead_memWrite (hi : 8 * i + 8 ≤ n) : memRead (memWrite buf i b) i = b := by
  apply bitAt_ext
  intro k hk
  have hin : 8 * i + k < n := by omega
  rw [bitAt_memRead_memWrite buf i b hk, decide_eq_true hin, Bool.true_and]

/-- Of a byte that lies half beyond the end of the buffer, the high nibble is read back. -/
theorem memRead_memWrite_of_half (hi : 8 * i + 4 = n) : memRead (memWrite buf i b) i = b &&& 0xF0 := by
  have hmask : ∀ k < 8, (0xF0 : Byte).getMsbD k = decide (k < 4) := by decide
  apply bitAt_ext
  intro k hk
  have hin : 8 * i + k < n ↔ k < 4 := by omega
  rw [bitAt_memRead_memWrite buf i b hk, decide_eq_decide.mpr hin, bitAt, bitAt, BitVec.getMsbD_and, hmask k hk, Bool.and_comm]

end Buffer

/-- The byte read back at a legal index of `IN` or `MX`, which end in the middle of byte 24 (R153). -/
theorem memRead_memWrite_of_le_24 (buf : BitVec 196) (b : Byte) {i : BitVec 5} (hi : i.toNat ≤ 24) :
    memRead (memWrite buf i.toNat b) i.toNat = if i = 24 then b &&& 0xF0 else b := by
  by_cases hlast : i = 24
  · rw [if_pos hlast, hlast]
    exact memRead_memWrite_of_half buf _ b rfl
  · have hne : i.toNat ≠ 24 := fun h => hlast (BitVec.eq_of_toNat_eq h)
    rw [if_neg hlast, memRead_memWrite buf _ b (by omega)]

/-! ### The fields of `STATUS` in its word (R40) -/

/-- The fields of `STATUS` above bit 0: each stands where the fields below it end. -/
theorem extractLsb'_statusWord (r : Status) :
    (statusWord r).extractLsb' 30 2 = r.st ∧ (statusWord r).extractLsb' 24 6 = 0 ∧
    (statusWord r).extractLsb' 16 8 = r.cnt ∧ (statusWord r).extractLsb' 8 8 = r.pos ∧
    (statusWord r).extractLsb' 4 4 = 0 ∧ (statusWord r).extractLsb' 1 3 = r.ecode := by
  simp only [statusWord, BitVec.extractLsb'_append_eq_of_le, BitVec.extractLsb'_append_eq_right,
    BitVec.extractLsb'_eq_self, Nat.reduceLeDiff, Nat.reduceSub, BitVec.ofNat_eq_ofNat, and_self]

/-- `FAULT` is bit 0 of the word. -/
theorem getLsbD_zero_statusWord (r : Status) : (statusWord r).getLsbD 0 = r.fault := by
  have hlow : (statusWord r).getLsbD 0 = (BitVec.ofBool r.fault).getLsbD 0 := BitVec.getLsbD_append
  rw [hlow, BitVec.getLsbD_ofBool, decide_eq_true rfl, Bool.true_and]

/-! ### The byte access commands at a legal index (R147 to R152, R310, R311) -/

/-- An index inside its space passes the check (R76). -/
theorem spaceIndex_of_lt {k limit : Nat} {i : BitVec k} (h : i.toNat < limit) :
    spaceIndex limit i = some ⟨i.toNat, h⟩ := spaceIndex_eq_some.mpr rfl

section Access
variable (s : State) (b : Byte)

section Index25
variable {i : BitVec 5} (hi : i.toNat ≤ 24)
include hi

theorem exec_inLdb : exec (.inLdb i b) s = doneNext s { s.block with inBuf := memWrite s.block.inBuf i.toNat b } := by
  rw [exec, execInLdb, spaceIndex_of_lt (Nat.lt_succ_of_le hi)]; rfl

theorem exec_inRdb : exec (.inRdb i) s = answerNext s ((memRead s.block.inBuf i.toNat).setWidth 32) := by
  rw [exec, execInRdb, spaceIndex_of_lt (Nat.lt_succ_of_le hi)]; rfl

theorem exec_mxLdb : exec (.mxLdb i b) s = doneNext s { s.block with mx := memWrite s.block.mx i.toNat b } := by
  rw [exec, execMxLdb, spaceIndex_of_lt (Nat.lt_succ_of_le hi)]; rfl

theorem exec_mxRdb : exec (.mxRdb i) s = answerNext s ((memRead s.block.mx i.toNat).setWidth 32) := by
  rw [exec, execMxRdb, spaceIndex_of_lt (Nat.lt_succ_of_le hi)]; rfl

end Index25

section Index12
variable {i : BitVec 4} (hi : i.toNat ≤ 11)
include hi

theorem exec_datLdb : exec (.datLdb i b) s = doneNext s { s.block with dat := memWrite s.block.dat i.toNat b } := by
  rw [exec, execDatLdb, spaceIndex_of_lt (Nat.lt_succ_of_le hi)]; rfl

theorem exec_datRdb : exec (.datRdb i) s = answerNext s ((memRead s.block.dat i.toNat).setWidth 32) := by
  rw [exec, execDatRdb, spaceIndex_of_lt (Nat.lt_succ_of_le hi)]; rfl

theorem exec_rsLd : exec (.rsLd i b) s =
    doneNext s { s.block with rs := s.block.rs.set i.toNat b (Nat.lt_succ_of_le hi) } := by
  rw [exec, execRsLd, spaceIndex_of_lt (Nat.lt_succ_of_le hi)]; rfl

theorem exec_rsRd : exec (.rsRd i) s =
    answerNext s ((s.block.rs[i.toNat]'(Nat.lt_succ_of_le hi)).setWidth 32) := by
  rw [exec, execRsRd, spaceIndex_of_lt (Nat.lt_succ_of_le hi)]; rfl

end Index12

end Access

/-! ### The obligations -/

/-- Settles O21: the encodings are the printed words, `getMsbD_memWrite` gives the new bits, and an index beyond the last byte
is an operand outside its range. -/
theorem byteLoadsWriteTheirEightBits : Obligations.ByteLoadsWriteTheirEightBits := by
  intro s b
  refine ⟨fun i => ⟨toNat_encode _, toNat_encode _⟩, fun i => toNat_encode _,
    fun i hi => ⟨_, exec_inLdb s b hi, fun _ => getMsbD_memWrite _ _ _⟩,
    fun i hi => ⟨_, exec_mxLdb s b hi, fun _ => getMsbD_memWrite _ _ _⟩,
    fun i hi => ⟨_, exec_datLdb s b hi, fun _ => getMsbD_memWrite _ _ _⟩, fun i hi => ?beyond25, fun i hi => ?beyond12⟩
  case beyond25 =>
    have hrange := legalIndex25_eq_false_iff.mpr hi
    exact ⟨outOfRangeOperandIsIllegal (.inLdb i b) s hrange, outOfRangeOperandIsIllegal (.mxLdb i b) s hrange⟩
  case beyond12 => exact outOfRangeOperandIsIllegal (.datLdb i b) s (legalIndex12_eq_false_iff.mpr hi)

/-- Settles O22: as O21, with the bits that `memRead` answers. -/
theorem byteReadsAnswerTheirEightBits : Obligations.ByteReadsAnswerTheirEightBits := by
  intro s
  refine ⟨fun i => ⟨toNat_encode _, toNat_encode _⟩, fun i => toNat_encode _,
    fun i hi => ⟨_, exec_inRdb s hi, fun _ => getLsbD_memRead_of_end _ _⟩,
    fun i hi => ⟨_, exec_mxRdb s hi, fun _ => getLsbD_memRead_of_end _ _⟩,
    fun i hi => ⟨_, exec_datRdb s hi, fun _ => getLsbD_memRead _ _⟩, fun i hi => ?beyond25, fun i hi => ?beyond12⟩
  case beyond25 =>
    have hrange := legalIndex25_eq_false_iff.mpr hi
    exact ⟨outOfRangeOperandIsIllegal (.inRdb i) s hrange, outOfRangeOperandIsIllegal (.mxRdb i) s hrange⟩
  case beyond12 => exact outOfRangeOperandIsIllegal (.datRdb i) s (legalIndex12_eq_false_iff.mpr hi)

/-- Settles O23: what a load wrote is read back, cut at the end of the buffer for byte 24 of `IN` and `MX` alone. -/
theorem loadThenReadGivesTheByte : Obligations.LoadThenReadGivesTheByte := by
  intro s b
  refine ⟨fun i hi => ⟨⟨_, exec_inLdb s b hi, ?inBuf⟩, ⟨_, exec_mxLdb s b hi, ?mx⟩⟩,
    fun i hi => ⟨⟨_, exec_datLdb s b hi, ?dat⟩, ⟨_, exec_rsLd s b hi, ?rs⟩⟩⟩
  case inBuf => rw [exec_inRdb _ hi, memRead_memWrite_of_le_24 _ b hi]
  case mx => rw [exec_mxRdb _ hi, memRead_memWrite_of_le_24 _ b hi]
  case dat => rw [exec_datRdb _ hi, memRead_memWrite _ _ b (by omega)]
  case rs => rw [exec_rsRd _ hi, Vector.getElem_set_self]

/-- Settles O24. -/
theorem bitsAndBytesRoundTrip : Obligations.BitsAndBytesRoundTrip :=
  ⟨bytesFromBits_bitsFromBytes, bitsFromBytes_bytesFromBits⟩

/-- Settles O18. -/
theorem nopChangesNothing : Obligations.NopChangesNothing := ⟨rfl, fun _ => rfl⟩

/-- Settles O19: `STATUS` answers `statusWord`, whose fields stand in their places. -/
theorem statusAnswersItsFieldsInPlace : Obligations.StatusAnswersItsFieldsInPlace := by
  refine ⟨rfl, fun s => ⟨statusWord s.block.status, rfl, ?_⟩⟩
  obtain ⟨hst, hhigh, hcnt, hpos, hlow, hecode⟩ := extractLsb'_statusWord s.block.status
  exact ⟨hst, hhigh, hcnt, hpos, hlow, hecode, getLsbD_zero_statusWord s.block.status⟩

/-- Settles O20. -/
theorem resetCommandRestoresResetValues : Obligations.ResetCommandRestoresResetValues := ⟨rfl, fun _ => rfl⟩

end Sys2Proof.Machine

/-! The CRC commands (`41_crc.md`). A bit string stands for its polynomial over GF(2) (R173), and the bit-serial engine computes
in the quotient by its generator: one shift multiplies by `x` and adds the message bit (`modGen_bitPoly_crcShift`), so a feed
multiplies by `x^n` and adds the bits fed. The statements about remainders are read off that quotient, where the register is
the one representative of low degree. The table-driven engine is compared with the bit-serial one through bit reversal: a right
shift is a left shift of the reversed register (`t16Step_reverse`). -/

namespace Sys2Proof.Machine

open Polynomial

/-! ### Bit strings as polynomials over GF(2) (R173) -/

section BitPoly
variable {n : Nat}

theorem bitPoly_succ (v : BitVec n) (len : Nat) :
    bitPoly v (len + 1) = bitPoly v len + (if v.getLsbD len then X ^ len else 0) := Finset.sum_range_succ _ len

@[simp] theorem bitPoly_len_zero (v : BitVec n) : bitPoly v 0 = 0 := rfl

@[simp] theorem bitPoly_zero (len : Nat) : bitPoly (0#n) len = 0 := by simp [bitPoly]

theorem coeff_bitPoly (v : BitVec n) (len k : Nat) :
    (bitPoly v len).coeff k = if k < len ∧ v.getLsbD k then 1 else 0 := by
  induction len with
  | zero => simp
  | succ len ih =>
    have hterm : (if v.getLsbD len then (X : (ZMod 2)[X]) ^ len else 0).coeff k =
        if k = len ∧ v.getLsbD len then 1 else 0 := by
      cases v.getLsbD len <;> simp [coeff_X_pow]
    rw [bitPoly_succ, coeff_add, ih, hterm]
    obtain hk | rfl | hk := lt_trichotomy k len
    · simp [hk, hk.ne, Nat.lt_succ_of_lt hk]
    · simp
    · simp [hk.not_gt, hk.ne', Nat.not_lt.mpr (Nat.succ_le_of_lt hk)]

theorem degree_bitPoly_lt (v : BitVec n) (len : Nat) : (bitPoly v len).degree < len := by
  rw [degree_lt_iff_coeff_zero]
  intro k hk
  rw [coeff_bitPoly, if_neg fun h => hk.not_gt h.1]

/-- A bit string is determined by its polynomial. -/
theorem bitPoly_injective {a b : BitVec n} (h : bitPoly a n = bitPoly b n) : a = b := by
  apply BitVec.eq_of_getLsbD_eq
  intro k hk
  have hcoeff := congrArg (coeff · k) h
  simp only [coeff_bitPoly, hk, true_and] at hcoeff
  revert hcoeff
  cases a.getLsbD k <;> cases b.getLsbD k <;> simp

/-- XOR is addition over GF(2). -/
theorem bitPoly_xor (a b : BitVec n) (len : Nat) : bitPoly (a ^^^ b) len = bitPoly a len + bitPoly b len := by
  rw [bitPoly, bitPoly, bitPoly, ← Finset.sum_add_distrib]
  refine Finset.sum_congr rfl fun k _ => ?_
  rw [BitVec.getLsbD_xor]
  cases a.getLsbD k <;> cases b.getLsbD k <;> simp [CharTwo.add_self_eq_zero]

/-- The eight bits of a byte, moved up by eight places of a 16-bit register. -/
theorem bitPoly_byte_shiftLeft (b : Byte) : bitPoly (b.setWidth 16 <<< 8) 16 = bitPoly b 8 * X ^ 8 := by
  have hlow : ∑ k ∈ Finset.range 8, (if (b.setWidth 16 <<< 8).getLsbD k then (X : (ZMod 2)[X]) ^ k else 0) = 0 :=
    Finset.sum_eq_zero fun k hk => by simp [Finset.mem_range.mp hk]
  rw [bitPoly, Finset.sum_range_add _ 8 8, hlow, zero_add, bitPoly, Finset.sum_mul]
  refine Finset.sum_congr rfl fun k hk => ?_
  have hk : k < 8 := Finset.mem_range.mp hk
  have hbit : (b.setWidth 16 <<< 8).getLsbD (8 + k) = b.getLsbD k := by
    simp [show 8 + k < 16 by omega]
  rw [hbit, ite_mul, zero_mul, ← pow_add, Nat.add_comm]

end BitPoly

/-! ### The bit-serial engine computes modulo its generator (R170 to R173) -/

/-- The generator polynomial of an engine of width `W`: `P` gives all its terms but the highest (R173). -/
noncomputable def crcGenerator {W : Nat} (P : BitVec W) : (ZMod 2)[X] := X ^ W + bitPoly P W

/-- The class of a polynomial modulo the generator. -/
noncomputable abbrev modGen {W : Nat} (P : BitVec W) : (ZMod 2)[X] →+* AdjoinRoot (crcGenerator P) :=
  AdjoinRoot.mk (crcGenerator P)

section Serial
variable {W : Nat} (P : BitVec W)

theorem monic_crcGenerator : (crcGenerator P).Monic := monic_X_pow_add (degree_bitPoly_lt P W)

theorem degree_bitPoly_lt_degree_crcGenerator (v : BitVec W) : (bitPoly v W).degree < (crcGenerator P).degree := by
  have hdegree : (crcGenerator P).degree = W := by
    have hlow : (bitPoly P W).degree < (X ^ W : (ZMod 2)[X]).degree := by rw [degree_X_pow]; exact degree_bitPoly_lt P W
    rw [crcGenerator, degree_add_eq_left_of_degree_lt hlow, degree_X_pow]
  exact hdegree ▸ degree_bitPoly_lt v W

/-- A register's polynomial is reduced. -/
theorem modByMonic_bitPoly (v : BitVec W) : bitPoly v W %ₘ crcGenerator P = bitPoly v W :=
  (modByMonic_eq_self_iff (monic_crcGenerator P)).mpr (degree_bitPoly_lt_degree_crcGenerator P v)

variable {P} in
/-- The register is the remainder of every polynomial of its class. -/
theorem bitPoly_eq_modByMonic {v : BitVec W} {p : (ZMod 2)[X]} (h : modGen P (bitPoly v W) = modGen P p) :
    bitPoly v W = p %ₘ crcGenerator P := by
  rw [← modByMonic_eq_of_dvd_sub (monic_crcGenerator P) (AdjoinRoot.mk_eq_mk.mp h), modByMonic_bitPoly]

variable {P} in
/-- Two registers of one class are equal. -/
theorem eq_of_modGen_bitPoly_eq {u v : BitVec W} (h : modGen P (bitPoly u W) = modGen P (bitPoly v W)) : u = v :=
  bitPoly_injective ((bitPoly_eq_modByMonic h).trans (modByMonic_bitPoly P v))

/-- What a left shift with a message bit at the low end makes of the polynomial: the leaving bit is the term of degree `W`. -/
theorem bitPoly_shiftIn [NeZero W] (c : BitVec W) (m : Bool) :
    bitPoly c W * X + (if m then 1 else 0 : (ZMod 2)[X]) =
      bitPoly (c <<< 1 ||| (BitVec.ofBool m).setWidth W) W + (if c.msb then X ^ W else 0) := by
  obtain ⟨w, rfl⟩ := Nat.exists_eq_add_one_of_ne_zero (NeZero.ne W)
  have hlow : (c <<< 1 ||| (BitVec.ofBool m).setWidth (w + 1)).getLsbD 0 = m := by cases m <;> simp
  have hhigh : ∀ k ∈ Finset.range w,
      (c <<< 1 ||| (BitVec.ofBool m).setWidth (w + 1)).getLsbD (k + 1) = c.getLsbD k := by
    intro k hk
    have hk : k < w := Finset.mem_range.mp hk
    cases m <;> simp [hk, Nat.lt_succ_of_lt hk]
  have hshifted : bitPoly (c <<< 1 ||| (BitVec.ofBool m).setWidth (w + 1)) (w + 1) =
      bitPoly c w * X + (if m then 1 else 0) := by
    rw [bitPoly, Finset.sum_range_succ', hlow, pow_zero, bitPoly, Finset.sum_mul]
    congr 1
    refine Finset.sum_congr rfl fun k hk => ?_
    rw [hhigh k hk, ite_mul, zero_mul, pow_succ]
  rw [hshifted, bitPoly_succ, BitVec.msb_eq_getLsbD_last, Nat.add_sub_cancel, add_mul, ite_mul, zero_mul, ← pow_succ]
  exact add_right_comm _ _ _

/-- One shift multiplies by `x` and adds the message bit, modulo the generator (R170). -/
theorem modGen_bitPoly_crcShift [NeZero W] (c : BitVec W) (m : Bool) :
    modGen P (bitPoly (crcShift P c m) W) = modGen P (bitPoly c W * X + (if m then 1 else 0 : (ZMod 2)[X])) := by
  rw [bitPoly_shiftIn, crcShift]
  cases c.msb with
  | false => simp
  | true =>
    have hP : (X : (ZMod 2)[X]) ^ W = crcGenerator P + bitPoly P W := by
      rw [crcGenerator, add_assoc, CharTwo.add_self_eq_zero, add_zero]
    rw [if_pos rfl, if_pos rfl, bitPoly_xor, hP, add_left_comm, map_add _ (crcGenerator P), AdjoinRoot.mk_self, zero_add]

/-- A feed of `n` bits multiplies by `x^n` and adds the polynomial of the bits (R171, R173). -/
theorem modGen_bitPoly_crcFeed [NeZero W] (b : Byte) (n : Nat) (c : BitVec W) :
    modGen P (bitPoly (crcFeed P b n c) W) = modGen P (bitPoly c W * X ^ n + bitPoly b n) := by
  induction n generalizing c with
  | zero => rw [crcFeed_zero, pow_zero, mul_one, bitPoly_len_zero, add_zero]
  | succ n ih =>
    have hbits : (bitPoly c W * X + (if b.getLsbD n then 1 else 0)) * X ^ n + bitPoly b n =
        bitPoly c W * X ^ (n + 1) + bitPoly b (n + 1) := by
      rw [bitPoly_succ, add_mul, ite_mul, one_mul, zero_mul]
      ring
    rw [crcFeed_succ, ih, map_add, map_mul, modGen_bitPoly_crcShift, ← map_mul, ← map_add, hbits]

/-- Finalizing is feeding zero bits (R172). -/
theorem crcFin_eq_crcFeed_zero (f : Nat) (c : BitVec W) : crcFin P f c = crcFeed P 0#8 f c := by
  induction f generalizing c with
  | zero => rfl
  | succ f ih => rw [crcFin_succ, ih, crcFeed_succ, BitVec.getLsbD_zero]

/-- A finalize of `f` shifts multiplies by `x^f` (R172, R173). -/
theorem modGen_bitPoly_crcFin [NeZero W] (f : Nat) (c : BitVec W) :
    modGen P (bitPoly (crcFin P f c) W) = modGen P (bitPoly c W * X ^ f) := by
  rw [crcFin_eq_crcFeed_zero, modGen_bitPoly_crcFeed, bitPoly_zero, add_zero]

/-- The feeds of a list, in order, leave the register at its polynomial moved past all the bits fed, plus the message
polynomial (R173, R180). -/
theorem modGen_bitPoly_foldl_crcFeed [NeZero W] (msg : List (BitVec 4 × Byte)) (c : BitVec W) :
    modGen P (bitPoly (msg.foldl (fun c p => crcFeed P p.2 p.1.toNat c) c) W) =
      modGen P (bitPoly c W * X ^ (msg.map fun p => p.1.toNat).sum + messagePoly msg) := by
  induction msg generalizing c with
  | nil => simp [messagePoly]
  | cons p rest ih =>
    rw [List.foldl_cons, ih, map_add, map_mul, modGen_bitPoly_crcFeed, ← map_mul, ← map_add, List.map_cons, List.sum_cons,
      messagePoly]
    exact congrArg (modGen P) (by ring)

end Serial

/-- The generator of CRC-9 (R174). -/
theorem crcGenerator_crc9Poly : crcGenerator params.crc9Poly = X ^ 9 + X ^ 6 + X ^ 4 + X ^ 3 + 1 := by
  simp [crcGenerator, bitPoly, params, Finset.sum_range_succ]
  ring

/-- The generator of CRC-16 (R184). -/
theorem crcGenerator_crc16Poly : crcGenerator params.crc16Poly = X ^ 16 + X ^ 12 + X ^ 5 + 1 := by
  simp [crcGenerator, bitPoly, params, Finset.sum_range_succ]
  ring

/-! ### The table-driven engine (R200, R201) -/

section Table
variable (P : BitVec 16)

@[simp] theorem t16Steps_zero (c : BitVec 16) : t16Steps P 0 c = c := rfl
theorem t16Steps_succ (n : Nat) (c : BitVec 16) : t16Steps P (n + 1) c = t16Steps P n (t16Step P c) := rfl

theorem t16Step_xor (a b : BitVec 16) : t16Step P (a ^^^ b) = t16Step P a ^^^ t16Step P b := by
  rw [t16Step, t16Step, t16Step, BitVec.getLsbD_xor, BitVec.ushiftRight_xor_distrib]
  cases a.getLsbD 0 <;> cases b.getLsbD 0 <;> simp [BitVec.xor_assoc, BitVec.xor_comm P]

theorem t16Steps_xor (n : Nat) (a b : BitVec 16) : t16Steps P n (a ^^^ b) = t16Steps P n a ^^^ t16Steps P n b := by
  induction n generalizing a b with
  | zero => rfl
  | succ n ih => rw [t16Steps_succ, t16Step_xor, ih, t16Steps_succ, t16Steps_succ]

/-- The table is linear over GF(2). -/
theorem romT16_xor (i j : Byte) : romT16 P (i ^^^ j) = romT16 P i ^^^ romT16 P j := by
  rw [romT16, BitVec.setWidth_xor, t16Steps_xor, romT16, romT16]

theorem t16Steps_eq_iterate (n : Nat) (c : BitVec 16) : t16Steps P n c = (t16Step P)^[n] c := by
  induction n generalizing c with
  | zero => rfl
  | succ n ih => exact ih (t16Step P c)

/-- While 0 bits leave, the steps of R200 only shift. -/
theorem t16Steps_of_low_bits_zero (n : Nat) (c : BitVec 16) (h : ∀ k < n, c.getLsbD k = false) :
    t16Steps P n c = c >>> n := by
  induction n generalizing c with
  | zero => rfl
  | succ n ih =>
    have hstep : t16Step P c = c >>> 1 := by rw [t16Step, h 0 n.succ_pos]; rfl
    have hlow : ∀ k < n, (c >>> 1).getLsbD k = false := fun k hk => by
      rw [BitVec.getLsbD_ushiftRight]; exact h (1 + k) (by omega)
    rw [t16Steps_succ, hstep, ih _ hlow, ← BitVec.shiftRight_add, Nat.add_comm]

/-- The table look-up does eight steps of R200 on the register with the byte added at its low end (R201). -/
theorem t16Update_eq_t16Steps (c : BitVec 16) (b : Byte) : t16Update P c b = t16Steps P 8 (c ^^^ b.setWidth 16) := by
  have hsplit : c ^^^ b.setWidth 16 = (c >>> 8) <<< 8 ^^^ (c.setWidth 8 ^^^ b).setWidth 16 := by
    apply BitVec.eq_of_getLsbD_eq
    intro k hk
    by_cases h8 : k < 8
    · simp [h8, hk]
    · simp [h8, hk, BitVec.getLsbD_of_ge b k (by omega), show 8 + (k - 8) = k by omega]
  have hhigh : t16Steps P 8 ((c >>> 8) <<< 8) = c >>> 8 := by
    rw [t16Steps_of_low_bits_zero P 8 _ fun k hk => by simp [hk]]
    apply BitVec.eq_of_getLsbD_eq
    intro k hk
    by_cases h8 : k < 8
    · simp [show 8 + k < 16 by omega]
    · simp [BitVec.getLsbD_of_ge c (8 + k) (by omega)]
  rw [hsplit, t16Steps_xor, hhigh, t16Update, romT16]

end Table

/-! ### The two CRC-16 engines (R207) -/

theorem reverse_xor {n : Nat} (a b : BitVec n) : (a ^^^ b).reverse = a.reverse ^^^ b.reverse := by
  apply BitVec.eq_of_getLsbD_eq
  intro k hk
  simp only [BitVec.getLsbD_reverse, BitVec.getLsbD_xor, BitVec.getMsbD_xor]

/-- Reversal turns left shifts into right shifts. -/
theorem reverse_shiftLeft {n : Nat} (a : BitVec n) (i : Nat) : (a <<< i).reverse = a.reverse >>> i := by
  apply BitVec.eq_of_getLsbD_eq
  intro k hk
  rw [BitVec.getLsbD_reverse, BitVec.getMsbD_shiftLeft, BitVec.getLsbD_ushiftRight, BitVec.getLsbD_reverse, Nat.add_comm]

section Reversal
variable (P : BitVec 16)

/-- A step of R200 is a shift of R170 on the reversed register, with the reversed polynomial and a 0 shifted in. -/
theorem t16Step_reverse (c : BitVec 16) : t16Step P.reverse c.reverse = (crcShift P c false).reverse := by
  have hshift : c.reverse >>> 1 = (c <<< 1 ||| (BitVec.ofBool false).setWidth 16).reverse := by
    rw [show (BitVec.ofBool false).setWidth 16 = 0#16 from rfl, BitVec.or_zero, reverse_shiftLeft]
  have hlow : c.reverse.getLsbD 0 = c.msb := BitVec.getLsbD_reverse
  rw [t16Step, crcShift, hlow, hshift]
  cases c.msb with
  | false => rfl
  | true => exact (reverse_xor _ _).symm

theorem t16Steps_reverse (n : Nat) (c : BitVec 16) : t16Steps P.reverse n c.reverse = (crcFin P n c).reverse := by
  induction n generalizing c with
  | zero => rfl
  | succ n ih => rw [t16Steps_succ, t16Step_reverse, ih, crcFin_succ]

/-- Feeding a byte before the 16 zero bits is XORing it into the high end after them, and shifting it through. -/
theorem crcFin_crcFeed_byte (b : Byte) (c : BitVec 16) :
    crcFin P 16 (crcFeed P b 8 c) = crcFin P 8 (crcFin P 16 c ^^^ b.setWidth 16 <<< 8) := by
  apply eq_of_modGen_bitPoly_eq (P := P)
  calc modGen P (bitPoly (crcFin P 16 (crcFeed P b 8 c)) 16)
      = modGen P ((bitPoly c 16 * X ^ 8 + bitPoly b 8) * X ^ 16) := by
        rw [modGen_bitPoly_crcFin, map_mul, modGen_bitPoly_crcFeed, ← map_mul]
    _ = modGen P ((bitPoly c 16 * X ^ 16 + bitPoly b 8 * X ^ 8) * X ^ 8) := congrArg (modGen P) (by ring)
    _ = modGen P (bitPoly (crcFin P 16 c ^^^ b.setWidth 16 <<< 8) 16 * X ^ 8) := by
        rw [map_mul, map_add, ← modGen_bitPoly_crcFin, ← map_add, ← bitPoly_byte_shiftLeft, ← bitPoly_xor, ← map_mul]
    _ = modGen P (bitPoly (crcFin P 8 (crcFin P 16 c ^^^ b.setWidth 16 <<< 8)) 16) := (modGen_bitPoly_crcFin P 8 _).symm

theorem reverse_byte_shiftLeft (b : Byte) : (b.reverse.setWidth 16 <<< 8).reverse = b.setWidth 16 := by
  rw [reverse_shiftLeft]
  apply BitVec.eq_of_getLsbD_eq
  intro k hk
  rw [BitVec.getLsbD_ushiftRight, BitVec.getLsbD_reverse, BitVec.getMsbD_setWidth, BitVec.getLsbD_setWidth]
  simp [hk, BitVec.getMsbD_reverse]

/-- One byte through both engines, the bit-serial one finalized: the registers stay reversals of each other (R207). -/
theorem t16Update_reverse (c : BitVec 16) (b : Byte) :
    t16Update P.reverse (crcFin P 16 c).reverse b = (crcFin P 16 (crcFeed P b.reverse 8 c)).reverse := by
  rw [t16Update_eq_t16Steps, crcFin_crcFeed_byte, ← t16Steps_reverse P 8, reverse_xor, reverse_byte_shiftLeft]

/-- Any bytes through both engines. -/
theorem foldl_t16Update_reverse (y : List Byte) (c : BitVec 16) :
    y.foldl (t16Update P.reverse) (crcFin P 16 c).reverse =
      (crcFin P 16 (y.foldl (fun c b => crcFeed P b.reverse 8 c) c)).reverse :=
  List.foldl_hom (fun c => (crcFin P 16 c).reverse) (t16Update_reverse P)

end Reversal

/-! ### The CRC commands -/

section Commands
variable (s : State)

/-- The state after a legal command without a result that gives the element `e` the value `v` (R120). -/
def State.wrote (e : Element) (v : e.Val) : State :=
  { s with block := s.block.set e v, out := some { rsp := 0, err := false } }

theorem doneNext_set (e : Element) (v : e.Val) : doneNext s (s.block.set e v) = .next (s.wrote e v) := rfl

theorem exec_crc9Clr : exec .crc9Clr s = doneNext s { s.block with crc9 := 0 } := rfl

theorem exec_crc9Feed {n : BitVec 4} (b : Byte) (h1 : 1 ≤ n.toNat) (h8 : n.toNat ≤ 8) : exec (.crc9Feed n b) s =
    doneNext s { s.block with crc9 := crcFeed params.crc9Poly b n.toNat s.block.crc9 } := by
  rw [exec, execCrc9Feed, execCrc9FeedWith, feedCount_eq_some.mpr ⟨rfl, h1, h8⟩]; rfl

theorem exec_crc9Fin : exec .crc9Fin s = doneNext s { s.block with crc9 := crcFin params.crc9Poly 8 s.block.crc9 } := rfl

theorem exec_crc16Clr : exec .crc16Clr s = doneNext s { s.block with crc16 := 0 } := rfl

theorem exec_crc16Feed (b : Byte) :
    exec (.crc16Feed b) s = doneNext s { s.block with crc16 := crcFeed params.crc16Poly b 8 s.block.crc16 } := rfl

theorem exec_crc16Fin :
    exec .crc16Fin s = doneNext s { s.block with crc16 := crcFin params.crc16Poly 16 s.block.crc16 } := rfl

theorem exec_crc32Clr : exec .crc32Clr s = doneNext s { s.block with crc32 := 0 } := rfl

theorem exec_crc32Feed (b : Byte) :
    exec (.crc32Feed b) s = doneNext s { s.block with crc32 := crcFeed params.crc32Poly b 8 s.block.crc32 } := rfl

theorem exec_crc32Fin :
    exec .crc32Fin s = doneNext s { s.block with crc32 := crcFin params.crc32Poly 32 s.block.crc32 } := rfl

theorem exec_crc16tClr : exec .crc16tClr s = doneNext s { s.block with crc16t := 0 } := rfl

theorem exec_crc16tFeed (b : Byte) :
    exec (.crc16tFeed b) s = doneNext s { s.block with crc16t := t16Update params.crc16tPoly s.block.crc16t b } := rfl

theorem exec_crc16tTab (i : Byte) :
    exec (.crc16tTab i) s = answerNext s ((romT16 params.crc16tPoly i).setWidth 32) := rfl

theorem reply_rspVal {k : Nat} (v : BitVec k) :
    s.reply s.block (rspVal v) = answerNext s (BitVec.ofNat 32 v.toNat) := by rw [BitVec.ofNat_toNat]; rfl

theorem exec_crc16tSet (v : BitVec 16) : exec (.crc16tSet v) s = doneNext s { s.block with crc16t := v } := rfl

end Commands

/-! ### Runs of commands (R47) -/

theorem execAll_cons {i : Instr} {s t : State} (h : exec i s = .next t) (is : List Instr) :
    execAll (i :: is) s = execAll is t := by rw [execAll, h]

theorem execAll_append {l : List Instr} {s t : State} (h : execAll l s = .next t) (m : List Instr) :
    execAll (l ++ m) s = execAll m t := by
  induction l generalizing s with
  | nil => cases h; rfl
  | cons i l ih =>
    rw [execAll] at h
    rw [List.cons_append, execAll]
    cases hi : exec i s with
    | next u => rw [hi] at h; exact ih h
    | fault r => rw [hi] at h; cases h
    | refused r => rw [hi] at h; cases h

/-- A run of commands each of which updates one value of the state is the fold of the updates. -/
theorem execAll_map {α β : Type} {cmd : α → Instr} {st : β → State} {f : β → α → β} (l : List α)
    (h : ∀ a ∈ l, ∀ c, exec (cmd a) (st c) = .next (st (f c a))) (c : β) :
    execAll (l.map cmd) (st c) = .next (st (l.foldl f c)) := by
  induction l generalizing c with
  | nil => rfl
  | cons a l ih =>
    rw [List.map_cons, execAll_cons (h a List.mem_cons_self c), ih fun a ha => h a (List.mem_cons_of_mem _ ha)]
    rfl

/-- A command that loads the value, then a run of updates. -/
theorem execAll_load_map {α β : Type} {i : Instr} {cmd : α → Instr} {s : State} {st : β → State} {f : β → α → β}
    {c : β} (hi : exec i s = .next (st c)) (l : List α) (h : ∀ a ∈ l, ∀ c, exec (cmd a) (st c) = .next (st (f c a))) :
    execAll ([i] ++ l.map cmd) s = .next (st (l.foldl f c)) :=
  (execAll_cons hi _).trans (execAll_map l h c)

/-- Clear, any legal feeds, and finalize of CRC-9, from any state. -/
theorem execAll_crc9 (s : State) (msg : List (BitVec 4 × Byte)) (h : ∀ p ∈ msg, 1 ≤ p.1.toNat ∧ p.1.toNat ≤ 8) :
    execAll ([.crc9Clr] ++ msg.map (fun p => .crc9Feed p.1 p.2) ++ [.crc9Fin]) s =
      .next (s.wrote .crc9 (crcFin params.crc9Poly 8
        (msg.foldl (fun c p => crcFeed params.crc9Poly p.2 p.1.toNat c) 0#9))) := by
  have hfeeds := execAll_load_map (st := s.wrote .crc9) (exec_crc9Clr s) msg
    fun p hp c => exec_crc9Feed (s.wrote .crc9 c) p.2 (h p hp).1 (h p hp).2
  exact (execAll_append hfeeds _).trans (execAll_cons (exec_crc9Fin _) [])

/-- Clear, any feeds, and finalize of the bit-serial CRC-16, the bytes of the list given to the engine by `g`. -/
theorem execAll_crc16 (s : State) (g : Byte → Byte) (y : List Byte) :
    execAll ([.crc16Clr] ++ y.map (fun b => .crc16Feed (g b)) ++ [.crc16Fin]) s =
      .next (s.wrote .crc16 (crcFin params.crc16Poly 16
        (y.foldl (fun c b => crcFeed params.crc16Poly (g b) 8 c) 0#16))) := by
  have hfeeds := execAll_load_map (st := s.wrote .crc16) (exec_crc16Clr s) y
    fun b _ c => exec_crc16Feed (s.wrote .crc16 c) (g b)
  exact (execAll_append hfeeds _).trans (execAll_cons (exec_crc16Fin _) [])

/-- Clear and any feeds of the table-driven CRC-16. -/
theorem execAll_crc16t (s : State) (y : List Byte) :
    execAll ([.crc16tClr] ++ y.map (fun b => .crc16tFeed b)) s =
      .next (s.wrote .crc16t (y.foldl (t16Update params.crc16tPoly) 0#16)) :=
  execAll_load_map (st := s.wrote .crc16t) (exec_crc16tClr s) y fun b _ c => exec_crc16tFeed (s.wrote .crc16t c) b

/-! ### The obligations -/

/-- Settles O27: the register keeps to its class modulo the generator, and is the remainder of that class. -/
theorem crcFeedIsAPolynomialRemainder : Obligations.CrcFeedIsAPolynomialRemainder := by
  intro s b
  refine ⟨fun n h1 h8 => ⟨_, exec_crc9Feed s b h1 h8, ?_⟩, ⟨_, exec_crc16Feed s b, ?_⟩, ⟨_, exec_crc32Feed s b, ?_⟩⟩
  · exact crcGenerator_crc9Poly ▸ bitPoly_eq_modByMonic (modGen_bitPoly_crcFeed _ b _ _)
  · exact crcGenerator_crc16Poly ▸ bitPoly_eq_modByMonic (modGen_bitPoly_crcFeed _ b _ _)
  · exact bitPoly_eq_modByMonic (modGen_bitPoly_crcFeed params.crc32Poly b _ _)

/-- Settles O28, as O27 with the zero bits of a finalize. -/
theorem crcFinalizeIsAPolynomialRemainder : Obligations.CrcFinalizeIsAPolynomialRemainder := by
  intro s
  refine ⟨⟨_, exec_crc9Fin s, ?_⟩, ⟨_, exec_crc16Fin s, ?_⟩, ⟨_, exec_crc32Fin s, ?_⟩⟩
  · exact crcGenerator_crc9Poly ▸ bitPoly_eq_modByMonic (modGen_bitPoly_crcFin _ _ _)
  · exact crcGenerator_crc16Poly ▸ bitPoly_eq_modByMonic (modGen_bitPoly_crcFin _ _ _)
  · exact bitPoly_eq_modByMonic (modGen_bitPoly_crcFin params.crc32Poly _ _)

/-- Settles O29, by induction on the list of feeds in the quotient by the generator. -/
theorem crc9ClosedForm : Obligations.Crc9ClosedForm := by
  intro s msg h
  refine ⟨_, (execAll_crc9 s msg h).trans (doneNext_set s .crc9 _).symm, crcGenerator_crc9Poly ▸ bitPoly_eq_modByMonic ?_⟩
  rw [modGen_bitPoly_crcFin, map_mul, modGen_bitPoly_foldl_crcFeed, bitPoly_zero, zero_mul, zero_add, ← map_mul]

/-- Settles O31. -/
theorem tableEntriesAreEightShifts : Obligations.TableEntriesAreEightShifts := by
  intro s i j
  refine ⟨_, _, exec_crc16tTab s i, exec_crc16tTab s j, t16Steps_eq_iterate _ 8 _, ?_⟩
  rw [exec_crc16tTab, romT16_xor]

/-- Settles O32: both engines start at 0, and each byte keeps the finalized register of the bit-serial one the reversal of the
table-driven one's. -/
theorem tableCrcIsTheReversedSerialCrc : Obligations.TableCrcIsTheReversedSerialCrc := by
  intro s y
  refine ⟨_, _, execAll_crc16t s y, execAll_crc16 s BitVec.reverse y, ?_⟩
  have hpoly : params.crc16tPoly = params.crc16Poly.reverse := by decide +kernel
  have hstart : 0#16 = (crcFin params.crc16Poly 16 0#16).reverse := by decide +kernel
  have hfold := foldl_t16Update_reverse params.crc16Poly y 0#16
  rw [← hpoly, ← hstart] at hfold
  exact hfold

/-- Settles O25. -/
theorem crcRegistersClear : Obligations.CrcRegistersClear :=
  ⟨rfl, fun s => ⟨exec_crc9Clr s, exec_crc16Clr s, exec_crc32Clr s, exec_crc16tClr s⟩⟩

/-- Settles O26: a register read as a number of its own width is the register. -/
theorem crcRegistersReadAsNumbers : Obligations.CrcRegistersReadAsNumbers :=
  ⟨rfl, fun s => ⟨reply_rspVal s _, reply_rspVal s _, congrArg (answerNext s) (BitVec.setWidth_eq _), reply_rspVal s _⟩⟩

/-- Settles O30. -/
theorem tableCrcUsesItsTable : Obligations.TableCrcUsesItsTable := fun s =>
  ⟨fun b => ⟨_, exec_crc16tTab s _, exec_crc16tFeed s b⟩, exec_crc16tSet s⟩

end Sys2Proof.Machine

/-! The Hamming units (`42_hamming.md`). A syndrome is linear, and that of a single flipped bit is the row of its index
(`hamSyn_flipBit`), so what a correction does is a matter of which rows the generator has: the general facts need distinct
non-zero rows alone, and each of the three codes adds which syndromes are rows of its table. -/

namespace Sys2Proof.Machine

/-! ### Bit strings: the single bit and the two parts of a code word -/

theorem bitAt_unitRow {m i : Nat} (j : Nat) (hi : i < m) : bitAt (unitRow m j) i = (i == j) := bitAt_ofBits_lt _ hi

theorem flipBit_of_lt {n i : Nat} (hi : i < n) (w : BitVec n) : flipBit w i = w ^^^ BitVec.twoPow n (n - 1 - i) := if_pos hi

theorem flipBit_eq_xor_unitRow {n i : Nat} (hi : i < n) (w : BitVec n) : flipBit w i = w ^^^ unitRow n i := by
  apply bitAt_ext
  intro j hj
  rw [flipBit_of_lt hi, bitAt_xor, bitAt_xor, bitAt_twoPow hi, bitAt_unitRow i hj, beq_eq_decide]

@[simp] theorem flipBit_flipBit {n : Nat} (w : BitVec n) (i : Nat) : flipBit (flipBit w i) i = w := by
  unfold flipBit
  split
  · rw [BitVec.xor_assoc, BitVec.xor_self, BitVec.xor_zero]
  · rfl

section CodeWord
variable {k m : Nat}

theorem bitAt_codeData (w : BitVec (k + m)) {i : Nat} (hi : i < k) : bitAt (codeData k m w) i = bitAt w i := by
  have h : k + m - (m + k - i) = i := by omega
  simp only [bitAt, codeData, BitVec.getMsbD_extractLsb', h, hi, decide_true, Bool.true_and]
  simp; omega

theorem bitAt_codeParity (w : BitVec (k + m)) {i : Nat} (hi : i < m) : bitAt (codeParity k m w) i = bitAt w (k + i) := by
  have h : k + m - (0 + m - i) = k + i := by omega
  simp only [bitAt, codeParity, BitVec.getMsbD_extractLsb', h, hi, decide_true, Bool.true_and]
  simp; omega

/-- The code word whose bit `i` alone is 1 has that bit among the data. -/
theorem codeData_unitRow_of_lt {i : Nat} (hi : i < k) :
    codeData k m (unitRow (k + m) i) = unitRow k i ∧ codeParity k m (unitRow (k + m) i) = 0#m := by
  constructor <;> apply bitAt_ext <;> intro j hj
  · rw [bitAt_codeData _ hj, bitAt_unitRow i hj, bitAt_unitRow i (by omega)]
  · rw [bitAt_codeParity _ hj, bitAt_unitRow i (by omega), bitAt_zero, beq_eq_false_iff_ne]; omega

/-- The code word whose bit `k + j` alone is 1 has that bit among the parity bits. -/
theorem codeParity_unitRow_add {j : Nat} (hj : j < m) :
    codeData k m (unitRow (k + m) (k + j)) = 0#k ∧ codeParity k m (unitRow (k + m) (k + j)) = unitRow m j := by
  constructor <;> apply bitAt_ext <;> intro i hi
  · rw [bitAt_codeData _ hi, bitAt_unitRow _ (by omega), bitAt_zero, beq_eq_false_iff_ne]; omega
  · rw [bitAt_codeParity _ hi, bitAt_unitRow _ (by omega), bitAt_unitRow _ hi, Bool.eq_iff_iff]
    simp

/-! ### Parity and syndrome (R220) -/

variable (G : Vector (BitVec m) k)

/-- The indices of the data bits that parity bit `j` sums: the rows of the generator with a 1 in column `j` (R220). -/
def parityTaps (j : Nat) : List (Fin k) := (List.finRange k).filter fun i : Fin k => bitAt G[i] j

/-- A parity bit is the XOR of the data bits that its column of the generator selects (R220). -/
theorem bitAt_hamPar (d : BitVec k) (j : Nat) :
    bitAt (hamPar G d) j = (parityTaps G j).foldl (fun q (i : Fin k) => q ^^ bitAt d i) false := by
  have hfold : ∀ (l : List (Fin k)) (p : BitVec m),
      bitAt (l.foldl (fun p (i : Fin k) => if bitAt d i.val then p ^^^ G[i] else p) p) j =
        (l.filter fun i : Fin k => bitAt G[i] j).foldl (fun q (i : Fin k) => q ^^ bitAt d i) (bitAt p j) := by
    intro l
    induction l with
    | nil => intro p; rfl
    | cons i l ih =>
      intro p
      rw [List.foldl_cons, ih, List.filter_cons]
      cases hd : bitAt d i <;> cases hg : bitAt G[i] j <;> simp [hd, -Fin.getElem_fin, hg]
  rw [hamPar, hfold, bitAt_zero, parityTaps]

/-- The parity is the XOR of the rows that the data bits select (R220). -/
theorem hamPar_eq_foldl_filter (d : BitVec k) :
    hamPar G d = ((List.finRange k).filter fun i : Fin k => bitAt d i).foldl (fun p (i : Fin k) => p ^^^ G[i]) 0#m :=
  List.foldl_filter.symm

/-- The parity of a single data bit is its row. -/
theorem hamPar_unitRow (i : Fin k) : hamPar G (unitRow k i) = G[i] := by
  have hsel : (List.finRange k).filter (fun j : Fin k => bitAt (unitRow k i) j) = [i] := by
    rw [show (fun j : Fin k => bitAt (unitRow k i) j) = (fun j => j == i) from
      funext fun j => by rw [bitAt_unitRow _ j.isLt, Bool.eq_iff_iff, beq_iff_eq, beq_iff_eq, Fin.ext_iff],
      List.filter_beq, List.count_finRange, List.replicate_one]
  rw [hamPar_eq_foldl_filter, hsel, List.foldl_cons, List.foldl_nil, BitVec.zero_xor]

@[simp] theorem hamPar_zero : hamPar G 0#k = 0#m := by
  rw [← BitVec.xor_self (x := 0#k), hamPar_xor, BitVec.xor_self]

theorem hamSyn_append (d : BitVec k) (p : BitVec m) : hamSyn G (d ++ p) = hamPar G d ^^^ p := by
  rw [hamSyn, codeData, codeParity, BitVec.extractLsb'_append_eq_left, BitVec.extractLsb'_append_eq_right]

/-- The word made of data and their parity passes the check (R220). -/
theorem hamSyn_append_hamPar (d : BitVec k) : hamSyn G (d ++ hamPar G d) = 0#m := by
  rw [hamSyn_append, BitVec.xor_self]

/-- The syndrome is linear over GF(2) (R220). -/
theorem hamSyn_xor (a b : BitVec (k + m)) : hamSyn G (a ^^^ b) = hamSyn G a ^^^ hamSyn G b := by
  simp only [hamSyn, codeData, codeParity, BitVec.extractLsb'_xor, hamPar_xor]
  ac_rfl

theorem getElem?_hamRows_of_lt {i : Nat} (hi : i < k) : (hamRows G)[i]? = some G[i] := by
  simp [hamRows, List.getElem?_append_left, hi]

theorem getElem?_hamRows_add {j : Nat} (hj : j < m) : (hamRows G)[k + j]? = some (unitRow m j) := by
  simp [hamRows, hj]

/-- The syndrome of a single bit is the row of its index (R221). -/
theorem getElem?_hamRows {i : Nat} (hi : i < k + m) : (hamRows G)[i]? = some (hamSyn G (unitRow (k + m) i)) := by
  obtain hdata | ⟨j, rfl⟩ : i < k ∨ ∃ j, i = k + j := by
    by_cases h : i < k
    · exact .inl h
    · exact .inr ⟨i - k, by omega⟩
  · obtain ⟨hd, hp⟩ := codeData_unitRow_of_lt (m := m) hdata
    rw [getElem?_hamRows_of_lt G hdata, hamSyn, hd, hp, BitVec.xor_zero, hamPar_unitRow G ⟨i, hdata⟩]
    rfl
  · obtain ⟨hd, hp⟩ := codeParity_unitRow_add (k := k) (m := m) (j := j) (by omega)
    rw [getElem?_hamRows_add G (by omega), hamSyn, hd, hp, hamPar_zero, BitVec.zero_xor]

/-- A flipped bit adds its row to the syndrome (R221). -/
theorem hamSyn_flipBit {i : Nat} {r : BitVec m} (hi : (hamRows G)[i]? = some r) (w : BitVec (k + m)) :
    hamSyn G (flipBit w i) = hamSyn G w ^^^ r := by
  have hlt : i < k + m := length_hamRows G ▸ (List.getElem?_eq_some_iff.mp hi).1
  rw [getElem?_hamRows G hlt, Option.some.injEq] at hi
  rw [flipBit_eq_xor_unitRow hlt, hamSyn_xor, hi]

/-! ### The search and the correction (R221) -/

theorem hamPos_eq_none_iff {syn : BitVec m} : hamPos G syn = none ↔ syn ∉ hamRows G := by
  rw [hamPos, List.findIdx?_eq_none_iff]
  simp only [beq_eq_false_iff_ne, List.forall_mem_ne']

/-- The position that the search gives is that of a row equal to the syndrome. -/
theorem getElem?_of_hamPos_eq_some {syn : BitVec m} {i : Nat} (h : hamPos G syn = some i) :
    (hamRows G)[i]? = some syn := by
  obtain ⟨hi, heq, -⟩ := List.findIdx?_eq_some_iff_getElem.mp h
  rw [List.getElem?_eq_getElem hi, eq_of_beq heq]

/-- Where the rows are distinct, the search finds each of them at its own index. -/
theorem hamPos_eq_some_of_nodup (hnodup : (hamRows G).Nodup) {syn : BitVec m} {i : Nat}
    (h : (hamRows G)[i]? = some syn) : hamPos G syn = some i := by
  obtain ⟨hi, rfl⟩ := List.getElem?_eq_some_iff.mp h
  refine List.findIdx?_eq_some_iff_getElem.mpr ⟨hi, beq_self_eq_true _, fun j hj heq => ?_⟩
  exact hj.ne (hnodup.getElem_inj_iff.mp (eq_of_beq heq))

section Correction
variable {G} {w : BitVec (k + m)}

theorem hamCor_of_syn_eq_zero (h : hamSyn G w = 0#m) : hamCor G w = ⟨.clean, 0, w⟩ := if_pos h

theorem hamCor_of_not_mem (h0 : hamSyn G w ≠ 0#m) (h : hamSyn G w ∉ hamRows G) : hamCor G w = ⟨.uncorrectable, 0, w⟩ :=
  (if_neg h0).trans (by rw [(hamPos_eq_none_iff G).mpr h])

theorem hamCor_of_hamPos {i : Nat} (h0 : hamSyn G w ≠ 0#m) (h : hamPos G (hamSyn G w) = some i) :
    hamCor G w = ⟨.corrected, i, flipBit w i⟩ :=
  (if_neg h0).trans (by rw [h])

theorem exists_hamCor_of_mem (h0 : hamSyn G w ≠ 0#m) (h : hamSyn G w ∈ hamRows G) :
    ∃ i < k + m, (hamRows G)[i]? = some (hamSyn G w) ∧ hamCor G w = ⟨.corrected, i, flipBit w i⟩ := by
  obtain ⟨i, hi⟩ := Option.ne_none_iff_exists'.mp (mt (hamPos_eq_none_iff G).mp (not_not.mpr h))
  exact ⟨i, hamPos_lt hi, getElem?_of_hamPos_eq_some G hi, hamCor_of_hamPos h0 hi⟩

theorem hamCor_cat_eq_clean_iff : (hamCor G w).cat = .clean ↔ hamSyn G w = 0#m := by
  obtain ⟨h0, h⟩ | ⟨h0, -, h⟩ | ⟨i, h0, -, h⟩ := hamCor_cases G w <;> simpa [h] using h0

theorem hamCor_cat_eq_uncorrectable_iff :
    (hamCor G w).cat = .uncorrectable ↔ hamSyn G w ≠ 0#m ∧ hamSyn G w ∉ hamRows G := by
  rw [← hamPos_eq_none_iff]
  obtain ⟨h0, h⟩ | ⟨h0, hp, h⟩ | ⟨i, h0, hp, h⟩ := hamCor_cases G w
  · simp [h, h0]
  · simpa [h, hp] using h0
  · simp [h, hp]

/-- A word changes in a correction alone. -/
theorem hamCor_word_of_ne_corrected (h : (hamCor G w).cat ≠ .corrected) : (hamCor G w).word = w := by
  obtain ⟨-, hc⟩ | ⟨-, -, hc⟩ | ⟨i, -, -, hc⟩ := hamCor_cases G w
  · rw [hc]
  · rw [hc]
  · exact absurd (by rw [hc]) h

theorem hamCor_word_of_corrected (h : (hamCor G w).cat = .corrected) :
    (hamCor G w).word = flipBit w (hamCor G w).pos := by
  obtain ⟨-, hc⟩ | ⟨-, -, hc⟩ | ⟨i, -, -, hc⟩ := hamCor_cases G w
  · rw [hc] at h; cases h
  · rw [hc] at h; cases h
  · rw [hc]

/-- A correction is made at a bit of the word. -/
theorem hamCor_pos_lt_of_corrected (h : (hamCor G w).cat = .corrected) : (hamCor G w).pos < k + m := by
  obtain ⟨-, hc⟩ | ⟨-, -, hc⟩ | ⟨i, -, hi, hc⟩ := hamCor_cases G w
  · rw [hc] at h; cases h
  · rw [hc] at h; cases h
  · rw [hc]; exact hamPos_lt hi

/-- What a correction leaves passes the check, unless no correction exists (R221). -/
theorem hamSyn_hamCor_word (h : (hamCor G w).cat ≠ .uncorrectable) : hamSyn G (hamCor G w).word = 0 := by
  obtain ⟨h0, hc⟩ | ⟨-, -, hc⟩ | ⟨i, -, hi, hc⟩ := hamCor_cases G w
  · rwa [hc]
  · exact absurd (by rw [hc]) h
  · rw [hc, hamSyn_flipBit G (getElem?_of_hamPos_eq_some G hi), BitVec.xor_self]; rfl

/-- Distinct non-zero rows locate a single flipped bit (R221). -/
theorem hamCor_flipBit (hnodup : (hamRows G).Nodup) (hzero : 0#m ∉ hamRows G) (hw : hamSyn G w = 0#m) {i : Nat}
    (hi : i < k + m) : hamCor G (flipBit w i) = ⟨.corrected, i, w⟩ := by
  have hrow := getElem?_hamRows G hi
  have hsyn : hamSyn G (flipBit w i) = hamSyn G (unitRow (k + m) i) := by
    rw [hamSyn_flipBit G hrow, hw]; exact BitVec.zero_xor
  rw [← hsyn] at hrow
  have h0 : hamSyn G (flipBit w i) ≠ 0#m := fun h => hzero (h ▸ List.mem_of_getElem? hrow)
  rw [hamCor_of_hamPos h0 (hamPos_eq_some_of_nodup G hnodup hrow), flipBit_flipBit]

end Correction

end CodeWord

/-! ### The rows of the three codes (R222, R232, R242) -/

/-- A parity bit whose equation lists the data bits `i`, `l`. -/
theorem getMsbD_hamPar {k m : Nat} {G : Vector (BitVec m) k} (d : BitVec k) {j : Nat} {i : Fin k} {l : List (Fin k)}
    (h : parityTaps G j = i :: l) :
    (hamPar G d).getMsbD j = l.foldl (fun q (i : Fin k) => q ^^ d.getMsbD i) (d.getMsbD i) := by
  have hbit := bitAt_hamPar G d j
  rwa [h, List.foldl_cons, Bool.false_xor] at hbit

/-- The parity equations of H15 (R223), as the indices that they list. -/
theorem parityTaps_gH15 :
    parityTaps params.gH15 0 = [0, 1, 2, 3, 5, 7, 8] ∧ parityTaps params.gH15 1 = [1, 2, 3, 4, 6, 8, 9] ∧
    parityTaps params.gH15 2 = [2, 3, 4, 5, 7, 9, 10] ∧ parityTaps params.gH15 3 = [0, 1, 2, 4, 6, 7, 10] := by
  decide +kernel

/-- The parity equations of H13 (R233), as the indices that they list. -/
theorem parityTaps_gH13 :
    parityTaps params.gH13 0 = [0, 1, 3, 5, 6] ∧ parityTaps params.gH13 1 = [0, 1, 2, 4, 6, 7] ∧
    parityTaps params.gH13 2 = [0, 1, 2, 3, 5, 7, 8] ∧ parityTaps params.gH13 3 = [0, 2, 4, 5, 8] := by
  decide +kernel

/-- The parity equations of H16 (R243), as the indices that they list. -/
theorem parityTaps_gH16 :
    parityTaps params.gH16 0 = [0, 1, 2, 3, 5, 7, 8] ∧ parityTaps params.gH16 1 = [1, 2, 3, 4, 6, 8, 9] ∧
    parityTaps params.gH16 2 = [2, 3, 4, 5, 7, 9, 10] ∧ parityTaps params.gH16 3 = [0, 1, 2, 4, 6, 7, 10] ∧
    parityTaps params.gH16 4 = [0, 2, 5, 6, 8, 9, 10] := by
  decide +kernel

theorem nodup_hamRows_gH15 : (hamRows params.gH15).Nodup := by decide +kernel
theorem nodup_hamRows_gH13 : (hamRows params.gH13).Nodup := by decide +kernel
theorem nodup_hamRows_gH16 : (hamRows params.gH16).Nodup := by decide +kernel

/-- H15 is perfect: every non-zero syndrome is a row (R224). -/
theorem mem_hamRows_gH15_iff : ∀ syn : BitVec 4, syn ∈ hamRows params.gH15 ↔ syn ≠ 0 := by decide +kernel

/-- The syndromes that H13 has no row for (R234 (a)). -/
theorem mem_hamRows_gH13_iff : ∀ syn : BitVec 4, syn ∈ hamRows params.gH13 ↔ syn ∉ [0x0#4, 0x9#4, 0xD#4] := by
  decide +kernel

/-- The rows of H16 are the syndromes of odd weight (R244 (c)). -/
theorem mem_hamRows_gH16_iff : ∀ syn : BitVec 5, syn ∈ hamRows params.gH16 ↔ weight syn % 2 = 1 := by decide +kernel

/-- The syndromes that leave a column beyond repair (R234 (a)). -/
theorem not_mem_hamRows_gH13_iff :
    ∀ syn : BitVec 4, syn ∈ [0x9#4, 0xD#4] ↔ syn ≠ 0 ∧ syn ∉ hamRows params.gH13 := by decide +kernel

theorem zero_not_mem_hamRows_gH15 : 0#4 ∉ hamRows params.gH15 := by decide +kernel
theorem zero_not_mem_hamRows_gH13 : 0#4 ∉ hamRows params.gH13 := by decide +kernel
theorem zero_not_mem_hamRows_gH16 : 0#5 ∉ hamRows params.gH16 := by decide +kernel

/-- The weight of an XOR has the parity of the sum of the weights. -/
theorem weight_xor_mod_two {n : Nat} (a b : BitVec n) : weight (a ^^^ b) % 2 = (weight a + weight b) % 2 := by
  unfold weight
  induction List.range n with
  | nil => rfl
  | cons i l ih =>
    simp only [List.countP_cons, bitAt_xor]
    cases bitAt a i <;> cases bitAt b i <;> simp <;> omega

/-! ### The responses and the records (R120, R48) -/

theorem toNat_append_eq_add {a b : Nat} (x : BitVec a) (y : BitVec b) : (x ++ y).toNat = x.toNat * 2 ^ b + y.toNat := by
  rw [BitVec.toNat_append, ← Nat.shiftLeft_add_eq_or_of_lt y.isLt, Nat.shiftLeft_eq]

theorem toNat_rspCor {n : Nat} (hn : n ≤ 16) (cat : Category) {pos : Nat} (hpos : pos < 32) (word : BitVec n) :
    (rspCor cat pos word).toNat = (categoryCode cat).toNat * 2 ^ 30 + pos * 2 ^ 24 + word.toNat := by
  have hword : word.toNat < 2 ^ 16 := word.isLt.trans_le (Nat.pow_le_pow_right (by decide) hn)
  simp only [rspCor, toNat_append_eq_add, BitVec.toNat_setWidth_of_le hn, BitVec.toNat_ofNat, Nat.mod_eq_of_lt hpos]
  omega

theorem rspCor_eq {n : Nat} (hn : n ≤ 16) (cat : Category) {pos : Nat} (hpos : pos < 32) (word : BitVec n) :
    rspCor cat pos word = BitVec.ofNat 32 ((categoryCode cat).toNat * 2 ^ 30 + pos * 2 ^ 24 + word.toNat) := by
  rw [← toNat_rspCor hn cat hpos, BitVec.ofNat_toNat, BitVec.setWidth_eq]

section Commands
variable (s : State)

theorem exec_h15Par (d : BitVec 11) : exec (.h15Par d) s = answerNext s ((hamPar params.gH15 d).setWidth 32) := rfl
theorem exec_h13Par (d : BitVec 9) : exec (.h13Par d) s = answerNext s ((hamPar params.gH13 d).setWidth 32) := rfl
theorem exec_h16Par (d : BitVec 11) : exec (.h16Par d) s = answerNext s ((hamPar params.gH16 d).setWidth 32) := rfl
theorem exec_h15Chk (w : BitVec 15) : exec (.h15Chk w) s = answerNext s ((hamSyn params.gH15 w).setWidth 32) := rfl
theorem exec_h13Chk (w : BitVec 13) : exec (.h13Chk w) s = answerNext s ((hamSyn params.gH13 w).setWidth 32) := rfl
theorem exec_h16Chk (w : BitVec 16) : exec (.h16Chk w) s = answerNext s ((hamSyn params.gH16 w).setWidth 32) := rfl
theorem exec_h15Pos (y : BitVec 4) : exec (.h15Pos y) s = answerNext s (rspIdx (hamPos params.gH15 y)) := rfl
theorem exec_h13Pos (y : BitVec 4) : exec (.h13Pos y) s = answerNext s (rspIdx (hamPos params.gH13 y)) := rfl
theorem exec_h16Pos (y : BitVec 5) : exec (.h16Pos y) s = answerNext s (rspIdx (hamPos params.gH16 y)) := rfl
theorem exec_h15Cor (w : BitVec 15) : exec (.h15Cor w) s = s.replyCor (hamCor params.gH15 w) := rfl
theorem exec_h13Cor (w : BitVec 13) : exec (.h13Cor w) s = s.replyCor (hamCor params.gH13 w) := rfl
theorem exec_h16Cor (w : BitVec 16) : exec (.h16Cor w) s = s.replyCor (hamCor params.gH16 w) := rfl

/-- What a `COR` command leaves that records these results and answers this word (R48, R228). -/
def corNext (st : BitVec 2) (pos cnt rsp : Nat) : Host.Outcome State Fault Refusal :=
  .next { s with
    block := { s.block with status := withResult s.block.status st pos cnt }
    out := some { rsp := BitVec.ofNat 32 rsp, err := false } }

section Answers
variable {n : Nat} (hn : n ≤ 16) (w : BitVec n)
include hn

theorem replyCor_eq_corNext (cat : Category) {pos : Nat} (hpos : pos < 32) : s.replyCor ⟨cat, pos, w⟩ =
    corNext s (categoryCode cat) pos (correctionCount cat)
      ((categoryCode cat).toNat * 2 ^ 30 + pos * 2 ^ 24 + w.toNat) := by
  rw [State.replyCor, rspCor_eq hn cat hpos]
  rfl

theorem replyCor_clean : s.replyCor ⟨.clean, 0, w⟩ = corNext s 0 0 0 w.toNat := by
  rw [replyCor_eq_corNext s hn w _ (by decide)]
  simp

theorem replyCor_uncorrectable : s.replyCor ⟨.uncorrectable, 0, w⟩ = corNext s 2 0 0 (2 * 2 ^ 30 + w.toNat) := by
  rw [replyCor_eq_corNext s hn w _ (by decide)]
  simp

theorem replyCor_corrected {i : Nat} (hi : i < n) :
    s.replyCor ⟨.corrected, i, w⟩ = corNext s 1 i 1 (2 ^ 30 + i * 2 ^ 24 + w.toNat) := by
  rw [replyCor_eq_corNext s hn w _ (by omega)]
  simp

end Answers

section Outcomes
variable {k m : Nat} {G : Vector (BitVec m) k} (hn : k + m ≤ 16) {w : BitVec (k + m)}
include hn

theorem replyCor_of_syn_eq_zero (h : hamSyn G w = 0#m) : s.replyCor (hamCor G w) = corNext s 0 0 0 w.toNat := by
  rw [hamCor_of_syn_eq_zero h, replyCor_clean s hn]

theorem replyCor_of_not_mem (h0 : hamSyn G w ≠ 0#m) (h : hamSyn G w ∉ hamRows G) :
    s.replyCor (hamCor G w) = corNext s 2 0 0 (2 * 2 ^ 30 + w.toNat) := by
  rw [hamCor_of_not_mem h0 h, replyCor_uncorrectable s hn]

theorem exists_replyCor_of_mem (h0 : hamSyn G w ≠ 0#m) (h : hamSyn G w ∈ hamRows G) :
    ∃ i < k + m, (hamRows G)[i]? = some (hamSyn G w) ∧ s.replyCor (hamCor G w) =
      corNext s 1 i 1 (2 ^ 30 + i * 2 ^ 24 + (w ^^^ BitVec.twoPow (k + m) (k + m - 1 - i)).toNat) := by
  obtain ⟨i, hi, hrow, hcor⟩ := exists_hamCor_of_mem h0 h
  exact ⟨i, hi, hrow, by rw [hcor, replyCor_corrected s hn _ hi, flipBit_of_lt hi]⟩

/-- A code word with one flipped bit is answered and recorded as corrected (R221). -/
theorem replyCor_flipped_code_word (hnodup : (hamRows G).Nodup) (hzero : 0#m ∉ hamRows G) (d : BitVec k) {i : Nat}
    (hi : i < k + m) :
    s.replyCor (hamCor G ((d ++ hamPar G d) ^^^ BitVec.twoPow (k + m) (k + m - 1 - i))) =
      corNext s 1 i 1 (2 ^ 30 + i * 2 ^ 24 + (d ++ hamPar G d).toNat) := by
  rw [← flipBit_of_lt hi, hamCor_flipBit hnodup hzero (hamSyn_append_hamPar G d) hi, replyCor_corrected s hn _ hi]

end Outcomes

end Commands

/-! ### The obligations -/

/-- Settles O37. -/
theorem distinctRowsLocateSingleErrors : Obligations.DistinctRowsLocateSingleErrors := by
  intro k m G hnodup hzero
  refine ⟨fun w hw i hi => hamCor_flipBit hnodup hzero hw hi, fun w hcat => hamSyn_hamCor_word ?_⟩
  rw [hcat]
  nofun

/-- Settles O33: each printed equation is the list of its data bits. -/
theorem hammingParityEquations : Obligations.HammingParityEquations := by
  intro s
  refine ⟨fun d => ⟨_, exec_h15Par s d, ?_⟩, fun d => ⟨_, exec_h13Par s d, ?_⟩, fun d => ⟨_, exec_h16Par s d, ?_⟩⟩
  · obtain ⟨h0, h1, h2, h3⟩ := parityTaps_gH15
    exact ⟨getMsbD_hamPar d h0, getMsbD_hamPar d h1, getMsbD_hamPar d h2, getMsbD_hamPar d h3⟩
  · obtain ⟨h0, h1, h2, h3⟩ := parityTaps_gH13
    exact ⟨getMsbD_hamPar d h0, getMsbD_hamPar d h1, getMsbD_hamPar d h2, getMsbD_hamPar d h3⟩
  · obtain ⟨h0, h1, h2, h3, h4⟩ := parityTaps_gH16
    exact ⟨getMsbD_hamPar d h0, getMsbD_hamPar d h1, getMsbD_hamPar d h2, getMsbD_hamPar d h3, getMsbD_hamPar d h4⟩

/-- Settles O34. -/
theorem hammingCheckComparesParities : Obligations.HammingCheckComparesParities := fun s =>
  ⟨fun d p => ⟨_, exec_h15Par s d, by rw [exec_h15Chk, hamSyn_append]⟩,
   fun d p => ⟨_, exec_h13Par s d, by rw [exec_h13Chk, hamSyn_append]⟩,
   fun d p => ⟨_, exec_h16Par s d, by rw [exec_h16Chk, hamSyn_append]⟩⟩

/-- Settles O36: which of the three cases of `ham_cor` a syndrome falls in is a question of the rows of its code. -/
theorem hammingCorrectionOutcomes : Obligations.HammingCorrectionOutcomes := by
  intro s
  simp only [exec_h15Cor, exec_h13Cor, exec_h16Cor]
  refine ⟨fun w => ⟨?_, ?_⟩, fun w => ⟨?_, ?_, ?_⟩, fun w => ⟨?_, ?_, ?_⟩⟩
  · exact replyCor_of_syn_eq_zero s (by decide)
  · exact fun h0 => exists_replyCor_of_mem s (by decide) h0 ((mem_hamRows_gH15_iff _).mpr h0)
  · exact replyCor_of_syn_eq_zero s (by decide)
  · intro h
    obtain ⟨h0, hrow⟩ := (not_mem_hamRows_gH13_iff _).mp h
    exact replyCor_of_not_mem s (by decide) h0 hrow
  · intro h
    have h0 : hamSyn params.gH13 w ≠ 0 := fun h0 => h (h0 ▸ List.mem_cons_self)
    exact exists_replyCor_of_mem s (by decide) h0 ((mem_hamRows_gH13_iff _).mpr h)
  · exact replyCor_of_syn_eq_zero s (by decide)
  · exact fun h0 h => replyCor_of_not_mem s (by decide) h0 (by rw [mem_hamRows_gH16_iff, h]; decide)
  · intro h
    have hrow := (mem_hamRows_gH16_iff _).mpr h
    exact exists_replyCor_of_mem s (by decide) (ne_of_mem_of_not_mem hrow zero_not_mem_hamRows_gH16) hrow

/-- Settles O38. -/
theorem singleErrorsAreCorrected : Obligations.SingleErrorsAreCorrected := fun s =>
  ⟨fun d => ⟨_, exec_h15Par s d, fun _ hi => (exec_h15Cor s _).trans <|
      replyCor_flipped_code_word s (by decide) nodup_hamRows_gH15 zero_not_mem_hamRows_gH15 d hi⟩,
   fun d => ⟨_, exec_h13Par s d, fun _ hi => (exec_h13Cor s _).trans <|
      replyCor_flipped_code_word s (by decide) nodup_hamRows_gH13 zero_not_mem_hamRows_gH13 d hi⟩,
   fun d => ⟨_, exec_h16Par s d, fun _ hi => (exec_h16Cor s _).trans <|
      replyCor_flipped_code_word s (by decide) nodup_hamRows_gH16 zero_not_mem_hamRows_gH16 d hi⟩⟩

/-- Settles O39: the syndrome is the XOR of two different rows of odd weight, so it has even weight and is not zero. -/
theorem doubleErrorsInH16AreDetected : Obligations.DoubleErrorsInH16AreDetected := by
  intro s w hw i j hij hj
  have hri := getElem?_hamRows params.gH16 (i := i) (by omega)
  have hrj := getElem?_hamRows params.gH16 hj
  generalize hamSyn params.gH16 (unitRow _ i) = ri at hri
  generalize hamSyn params.gH16 (unitRow _ j) = rj at hrj
  have hsyn : hamSyn params.gH16 (flipBit (flipBit w i) j) = ri ^^^ rj := by
    rw [hamSyn_flipBit _ hrj, hamSyn_flipBit _ hri, hw]
    exact congrArg (· ^^^ rj) BitVec.zero_xor
  have hne : ri ≠ rj := by
    rintro rfl
    have hi := hamPos_eq_some_of_nodup _ nodup_hamRows_gH16 hri
    rw [hamPos_eq_some_of_nodup _ nodup_hamRows_gH16 hrj] at hi
    exact hij.ne' (Option.some.inj hi)
  have hodd : ∀ {l : Nat} {r : BitVec 5}, (hamRows params.gH16)[l]? = some r → weight r % 2 = 1 := fun h =>
    (mem_hamRows_gH16_iff _).mp (List.mem_of_getElem? h)
  refine ((hammingCorrectionOutcomes s).2.2 _).2.1 ?_ ?_
  · rw [hsyn]
    exact mt BitVec.xor_eq_zero_iff.mp hne
  · rw [hsyn, weight_xor_mod_two, Nat.add_mod, hodd hri, hodd hrj]

/-- Settles O35. -/
theorem hammingPositionMaps : Obligations.HammingPositionMaps := by
  intro s
  refine ⟨fun y => ⟨toNat_encode _, toNat_encode _⟩, fun y => toNat_encode _, fun y => ?_, fun y => ?_, fun y => ?_⟩
  · rw [exec_h15Pos]
    exact congrArg (answerNext s) (by revert y; decide +kernel)
  · rw [exec_h13Pos]
    exact congrArg (answerNext s) (by revert y; decide +kernel)
  · rw [exec_h16Pos]
    exact congrArg (answerNext s) (by revert y; decide +kernel)

end Sys2Proof.Machine

/-! The repair of the matrix (`45_bptc.md` R345, R346, R351). The columns, and the data rows, are each a family of lines that
share no element, so a check sees its line as it was before the pass and its flip is seen by no later check of the pass
(`PassDone`). Both passes are that one argument. -/

namespace Sys2Proof.Machine

/-! ### Lines of the matrix -/

/-- Line `c` of the matrix as a word of `n` bits, where its bit `p` stands at `MX` index `idx c p`: a column for
`columnIndex`, a row for `mxIndex`. -/
def lineWord (n : Nat) (idx : Nat → Nat → Nat) (mx : BitVec 196) (c : Nat) : BitVec n := ofBits n fun p => bitAt mx (idx c p)

/-- The `MX` index of bit `r` of column `c`. -/
def columnIndex (c r : Nat) : Nat := mxIndex r c

/-- The first `N` lines of `n` bits share no element, and none of their elements is `MX[0]` or lies beyond the end of `MX`. -/
structure LinesApart (idx : Nat → Nat → Nat) (N n : Nat) : Prop where
  inj : ∀ {c c' p p'}, c < N → c' < N → p < n → p' < n → idx c p = idx c' p' → c = c' ∧ p = p'
  lt : ∀ {c p}, c < N → p < n → idx c p < 196
  pos : ∀ c p, 0 < idx c p

theorem linesApart_columns : LinesApart columnIndex 15 (9 + 4) := by
  constructor <;> intros <;> simp only [columnIndex, mxIndex] at * <;> omega

theorem linesApart_rows : LinesApart mxIndex 13 (11 + 4) := by
  constructor <;> intros <;> simp only [mxIndex] at * <;> omega

section Flip
variable {idx : Nat → Nat → Nat} {N n : Nat} (hidx : LinesApart idx N n) (mx : BitVec 196) {c p : Nat} (hc : c < N)
  (hp : p < n)
include hidx hc hp

theorem lineWord_flipBit_self :
    lineWord n idx (flipBit mx (idx c p)) c = flipBit (lineWord n idx mx c) p := by
  apply bitAt_ext
  intro q hq
  have hsame : idx c q = idx c p ↔ q = p := ⟨fun h => (hidx.inj hc hc hq hp h).2, fun h => h ▸ rfl⟩
  simp only [lineWord, bitAt_flipBit, bitAt_ofBits_lt _ hq, hsame, hidx.lt hc hp, hp]

theorem lineWord_flipBit_of_ne {c' : Nat} (hc' : c' < N) (hne : c' ≠ c) :
    lineWord n idx (flipBit mx (idx c p)) c' = lineWord n idx mx c' := by
  apply bitAt_ext
  intro q hq
  have hother : idx c' q ≠ idx c p := fun h => hne (hidx.inj hc' hc hq hp h).1
  simp only [lineWord, bitAt_flipBit, bitAt_ofBits_lt _ hq, hother, false_and, if_false]

end Flip

/-! ### One pass of checks (R345) -/

/-- What a loop step does that found no flip to make. -/
theorem repairWith_of_ne_corrected (a : Repair) {cat : Category} (idx : Nat) (h : cat ≠ .corrected) :
    (repairWith a cat idx).mx = a.mx ∧ (repairWith a cat idx).cnt = a.cnt ∧ (repairWith a cat idx).pos = a.pos := by
  obtain ⟨-, hr⟩ | ⟨hcat, -⟩ | ⟨-, hr⟩ := repairWith_cases a cat idx
  · rw [hr]; exact ⟨rfl, rfl, rfl⟩
  · exact absurd hcat h
  · rw [hr]; exact ⟨rfl, rfl, rfl⟩

theorem repairWith_fatal_iff (a : Repair) (cat : Category) (idx : Nat) :
    (repairWith a cat idx).fatal = true ↔ a.fatal = true ∨ cat = .uncorrectable := by
  obtain ⟨rfl, hr⟩ | ⟨rfl, hr⟩ | ⟨rfl, hr⟩ := repairWith_cases a cat idx <;> simp [hr]

section Pass
variable {k m : Nat} (G : Vector (BitVec m) k) (idx : Nat → Nat → Nat)

/-- What `ham_cor` gives for line `c` of the matrix. -/
def lineCor (mx : BitVec 196) (c : Nat) : HamResult (k + m) := hamCor G (lineWord (k + m) idx mx c)

/-- The check and repair of line `c` (R345). -/
def repairLine (a : Repair) (c : Nat) : Repair :=
  repairWith a (lineCor G idx a.mx c).cat (idx c (lineCor G idx a.mx c).pos)

/-- None of the first `n` lines is corrected. -/
def NoFlip (mx : BitVec 196) (n : Nat) : Prop := ∀ c < n, (lineCor G idx mx c).cat ≠ .corrected

/-- Line `l` is the last of the first `n` lines that is corrected. -/
structure LastFlip (mx : BitVec 196) (n l : Nat) : Prop where
  lt : l < n
  corrected : (lineCor G idx mx l).cat = .corrected
  later : ∀ c < n, l < c → (lineCor G idx mx c).cat ≠ .corrected

/-- What holds after the checks of the first `n` of `N` lines, in terms of the variables `b` before the pass (R345). -/
structure PassDone (N : Nat) (b : Repair) (n : Nat) (a : Repair) : Prop where
  checked : ∀ c < n, lineWord (k + m) idx a.mx c = (lineCor G idx b.mx c).word
  unchecked : ∀ c < N, n ≤ c → lineWord (k + m) idx a.mx c = lineWord (k + m) idx b.mx c
  reserved : bitAt a.mx 0 = bitAt b.mx 0
  cnt_eq : a.cnt = b.cnt + (List.range n).countP fun c => (lineCor G idx b.mx c).cat = .corrected
  fatal_iff : a.fatal = true ↔ b.fatal = true ∨ ∃ c < n, (lineCor G idx b.mx c).cat = .uncorrectable
  last : (NoFlip G idx b.mx n ∧ a.mx = b.mx ∧ a.pos = b.pos) ∨
    ∃ l, LastFlip G idx b.mx n l ∧ a.pos = idx l (lineCor G idx b.mx l).pos

variable {G idx} {N n : Nat} {a b : Repair}

theorem countP_corrected_succ (mx : BitVec 196) (n : Nat) :
    (List.range (n + 1)).countP (fun c => (lineCor G idx mx c).cat = .corrected) =
      (List.range n).countP (fun c => (lineCor G idx mx c).cat = .corrected) +
        if (lineCor G idx mx n).cat = .corrected then 1 else 0 := by
  simp [List.range_succ, List.countP_append]

theorem passDone_zero : PassDone G idx N b 0 b where
  checked := nofun
  unchecked _ _ _ := rfl
  reserved := rfl
  cnt_eq := rfl
  fatal_iff := by simp
  last := .inl ⟨nofun, rfl, rfl⟩

/-- A check sees its line as it was before the pass. -/
theorem PassDone.lineCor_eq (h : PassDone G idx N b n a) (hn : n < N) : lineCor G idx a.mx n = lineCor G idx b.mx n := by
  rw [lineCor, h.unchecked n hn le_rfl, lineCor]

theorem PassDone.fatal_iff_succ (h : PassDone G idx N b n a) (hn : n < N) : (repairLine G idx a n).fatal = true ↔
    b.fatal = true ∨ ∃ c < n + 1, (lineCor G idx b.mx c).cat = .uncorrectable := by
  rw [repairLine, repairWith_fatal_iff, h.fatal_iff, h.lineCor_eq hn, Nat.exists_lt_succ_right, or_assoc]

/-- A check that flips no bit. -/
theorem PassDone.succ_of_ne_corrected (h : PassDone G idx N b n a) (hn : n < N)
    (hcat : (lineCor G idx b.mx n).cat ≠ .corrected) : PassDone G idx N b (n + 1) (repairLine G idx a n) := by
  obtain ⟨hmx, hcnt, hpos⟩ : (repairLine G idx a n).mx = a.mx ∧ (repairLine G idx a n).cnt = a.cnt ∧
      (repairLine G idx a n).pos = a.pos := repairWith_of_ne_corrected a _ (h.lineCor_eq hn ▸ hcat)
  refine ⟨?checked, ?unchecked, ?reserved, ?cnt_eq, h.fatal_iff_succ hn, ?last⟩
  case checked =>
    rw [hmx, Nat.forall_lt_succ_right]
    exact ⟨h.checked, (h.unchecked n hn le_rfl).trans (hamCor_word_of_ne_corrected hcat).symm⟩
  case unchecked => rw [hmx]; exact fun c hc hle => h.unchecked c hc (Nat.le_of_succ_le hle)
  case reserved => rw [hmx, h.reserved]
  case cnt_eq => rw [hcnt, h.cnt_eq, countP_corrected_succ, if_neg hcat, Nat.add_zero]
  case last =>
    rw [hmx, hpos]
    obtain ⟨hno, hkept⟩ | ⟨l, hl, hlpos⟩ := h.last
    · exact .inl ⟨Nat.forall_lt_succ_right.mpr ⟨hno, hcat⟩, hkept⟩
    · refine .inr ⟨l, ⟨Nat.lt_succ_of_lt hl.lt, hl.corrected, ?_⟩, hlpos⟩
      exact Nat.forall_lt_succ_right.mpr ⟨hl.later, fun _ => hcat⟩

/-- A check that flips a bit of its line. -/
theorem PassDone.succ_of_corrected (hidx : LinesApart idx N (k + m)) (h : PassDone G idx N b n a) (hn : n < N)
    (hcat : (lineCor G idx b.mx n).cat = .corrected) : PassDone G idx N b (n + 1) (repairLine G idx a n) := by
  have hrepair : repairLine G idx a n = { a with
      mx := flipBit a.mx (idx n (lineCor G idx b.mx n).pos), cnt := a.cnt + 1
      pos := idx n (lineCor G idx b.mx n).pos } := by
    rw [repairLine, h.lineCor_eq hn, hcat]; rfl
  have hp : (lineCor G idx b.mx n).pos < k + m := hamCor_pos_lt_of_corrected hcat
  have hother := fun {c} => lineWord_flipBit_of_ne hidx a.mx hn hp (c' := c)
  refine ⟨?checked, ?unchecked, ?reserved, ?cnt_eq, h.fatal_iff_succ hn, ?last⟩
  case checked =>
    rw [hrepair, Nat.forall_lt_succ_right]
    refine ⟨fun c hc => (hother (hc.trans hn) hc.ne).trans (h.checked c hc), ?_⟩
    rw [lineWord_flipBit_self hidx a.mx hn hp, h.unchecked n hn le_rfl]
    exact (hamCor_word_of_corrected hcat).symm
  case unchecked =>
    rw [hrepair]
    exact fun c hc hle => (hother hc (Nat.ne_of_gt hle)).trans (h.unchecked c hc (Nat.le_of_succ_le hle))
  case reserved =>
    rw [hrepair, ← h.reserved, bitAt_flipBit, if_neg fun hz => (hidx.pos n _).ne hz.1]
  case cnt_eq => rw [hrepair, countP_corrected_succ, if_pos hcat, ← Nat.add_assoc, ← h.cnt_eq]
  case last =>
    rw [hrepair]
    exact .inr ⟨n, ⟨Nat.lt_succ_self n, hcat, fun c hc hlt => absurd hlt (Nat.not_lt.mpr (Nat.lt_succ_iff.mp hc))⟩, rfl⟩

/-- A whole pass over the first `n` lines (R345). -/
theorem passDone_foldl (hidx : LinesApart idx N (k + m)) (b : Repair) (hn : n ≤ N) :
    PassDone G idx N b n ((List.range n).foldl (repairLine G idx) b) := by
  induction n with
  | zero => exact passDone_zero
  | succ n ih =>
    rw [List.range_succ, List.foldl_append, List.foldl_cons, List.foldl_nil]
    have h := ih (Nat.le_of_succ_le hn)
    by_cases hcat : (lineCor G idx b.mx n).cat = .corrected
    · exact h.succ_of_corrected hidx hn hcat
    · exact h.succ_of_ne_corrected hn hcat

/-! ### What a finished pass says -/

theorem PassDone.cnt_eq_zero_iff (h : PassDone G idx N b n a) : a.cnt = 0 ↔ b.cnt = 0 ∧ NoFlip G idx b.mx n := by
  simp [h.cnt_eq, NoFlip, List.countP_eq_zero]

theorem PassDone.kept_of_noFlip (h : PassDone G idx N b n a) (hno : NoFlip G idx b.mx n) :
    a.mx = b.mx ∧ a.pos = b.pos := by
  obtain ⟨-, hkept⟩ | ⟨l, hl, -⟩ := h.last
  · exact hkept
  · exact absurd hl.corrected (hno l hl.lt)

theorem PassDone.pos_eq_of_lastFlip (h : PassDone G idx N b n a) {r : Nat} (hr : LastFlip G idx b.mx n r) :
    a.pos = idx r (lineCor G idx b.mx r).pos := by
  obtain ⟨hno, -⟩ | ⟨l, hl, hpos⟩ := h.last
  · exact absurd hr.corrected (hno r hr.lt)
  · have hlr : ¬ l < r := fun hlt => hl.later r hr.lt hlt hr.corrected
    have hrl : ¬ r < l := fun hlt => hr.later l hl.lt hlt hl.corrected
    obtain rfl : l = r := by omega
    exact hpos

/-- A position of 0 is that of no flip, as `MX[0]` is in no line. -/
theorem PassDone.noFlip_of_pos_eq_zero (hidx : LinesApart idx N (k + m)) (h : PassDone G idx N b n a) (h0 : a.pos = 0) :
    NoFlip G idx b.mx n := by
  obtain ⟨hno, -⟩ | ⟨l, -, hpos⟩ := h.last
  · exact hno
  · exact absurd (hpos.symm.trans h0) (hidx.pos l _).ne'

end Pass

/-! ### `BPTC.REPAIR` -/

theorem repairColumn_eq_repairLine : repairColumn params = repairLine params.gH13 columnIndex := rfl

theorem repairRow_eq_repairLine : repairRow params = repairLine params.gH15 mxIndex := rfl

/-- The loop's variables after the column pass over a matrix (R345). -/
def columnPass (mx : BitVec 196) : Repair := (List.range 15).foldl (repairLine params.gH13 columnIndex) ⟨mx, 0, 0, false⟩

/-- The loop's variables after both passes are those of the row pass after the column pass (R345). -/
theorem repairLoop_eq (mx : BitVec 196) :
    repairLoop params mx = (List.range 9).foldl (repairLine params.gH15 mxIndex) (columnPass mx) := by
  rw [repairLoop, repairColumn_eq_repairLine, repairRow_eq_repairLine, columnPass]

theorem passDone_columnPass (mx : BitVec 196) :
    PassDone params.gH13 columnIndex 15 ⟨mx, 0, 0, false⟩ 15 (columnPass mx) :=
  passDone_foldl linesApart_columns _ le_rfl

theorem passDone_repairLoop (mx : BitVec 196) :
    PassDone params.gH15 mxIndex 13 (columnPass mx) 9 (repairLoop params mx) :=
  repairLoop_eq mx ▸ passDone_foldl linesApart_rows _ (by decide)

theorem repairCategory_eq_uncorrectable_iff (a : Repair) : repairCategory a = .uncorrectable ↔ a.fatal = true := by
  unfold repairCategory
  split_ifs <;> simp [*]

theorem repairCategory_eq_clean_iff (a : Repair) : repairCategory a = .clean ↔ ¬ a.fatal = true ∧ a.cnt = 0 := by
  unfold repairCategory
  split_ifs with hfatal hcnt
  · simp [hfatal]
  · simp [hcnt.ne']
  · simp [hfatal, Nat.eq_zero_of_not_pos hcnt]

theorem categoryCode_eq_two_iff (cat : Category) : categoryCode cat = 2 ↔ cat = .uncorrectable := by cases cat <;> decide

/-- A data row always has a correction, as H15 is perfect (R224). -/
theorem hamCor_gH15_cat_ne_uncorrectable (w : BitVec 15) : (hamCor params.gH15 w).cat ≠ .uncorrectable := by
  rw [Ne, hamCor_cat_eq_uncorrectable_iff, mem_hamRows_gH15_iff]
  exact fun h => h.2 h.1

/-- A column has no correction for two syndromes (R234 (a)). -/
theorem hamCor_gH13_cat_eq_uncorrectable_iff (w : BitVec 13) :
    (hamCor params.gH13 w).cat = .uncorrectable ↔ hamSyn params.gH13 w ∈ [0x9#4, 0xD#4] := by
  rw [hamCor_cat_eq_uncorrectable_iff, not_mem_hamRows_gH13_iff]; rfl

theorem Category.eq_clean_iff (cat : Category) : cat = .clean ↔ cat ≠ .uncorrectable ∧ cat ≠ .corrected := by
  cases cat <;> decide

section RepairLoop
variable (mx : BitVec 196)

theorem repairLoop_fatal_iff : (repairLoop params mx).fatal = true ↔
    ∃ c < 15, (hamCor params.gH13 (column mx c)).cat = .uncorrectable := by
  have hrows : ¬ ∃ r < 9, (lineCor params.gH15 mxIndex (columnPass mx).mx r).cat = .uncorrectable :=
    fun ⟨_, _, h⟩ => hamCor_gH15_cat_ne_uncorrectable _ h
  rw [(passDone_repairLoop mx).fatal_iff, or_iff_left hrows, (passDone_columnPass mx).fatal_iff]
  exact or_iff_right nofun

/-- The loop counts no flip exactly where neither pass finds one to make. -/
theorem repairLoop_cnt_eq_zero_iff : (repairLoop params mx).cnt = 0 ↔
    NoFlip params.gH13 columnIndex mx 15 ∧ NoFlip params.gH15 mxIndex (columnPass mx).mx 9 := by
  rw [(passDone_repairLoop mx).cnt_eq_zero_iff, (passDone_columnPass mx).cnt_eq_zero_iff]
  exact and_congr_left' (and_iff_right rfl)

theorem repairLoop_mx_of_cnt_eq_zero (h : (repairLoop params mx).cnt = 0) : (repairLoop params mx).mx = mx := by
  obtain ⟨hcols, hrows⟩ := (repairLoop_cnt_eq_zero_iff mx).mp h
  rw [((passDone_repairLoop mx).kept_of_noFlip hrows).1, ((passDone_columnPass mx).kept_of_noFlip hcols).1]

theorem repairLoop_cnt_eq_zero_of_pos (h : (repairLoop params mx).pos = 0) : (repairLoop params mx).cnt = 0 := by
  have hrows := (passDone_repairLoop mx).noFlip_of_pos_eq_zero linesApart_rows h
  have hcols := (passDone_columnPass mx).noFlip_of_pos_eq_zero linesApart_columns
    (((passDone_repairLoop mx).kept_of_noFlip hrows).2 ▸ h)
  exact (repairLoop_cnt_eq_zero_iff mx).mpr ⟨hcols, hrows⟩

/-- The repair is clean exactly where every column and every data row passes as it was received. -/
theorem repairCategory_repairLoop_eq_clean_iff : repairCategory (repairLoop params mx) = .clean ↔
    (∀ c < 15, hamSyn params.gH13 (column mx c) = 0) ∧ ∀ r < 9, hamSyn params.gH15 (row mx r) = 0 := by
  simp only [repairCategory_eq_clean_iff, repairLoop_fatal_iff, repairLoop_cnt_eq_zero_iff]
  constructor
  · rintro ⟨hfatal, hcols, hrows⟩
    rw [((passDone_columnPass mx).kept_of_noFlip hcols).1] at hrows
    refine ⟨fun c hc => ?_, fun r hr => ?_⟩
    · exact hamCor_cat_eq_clean_iff.mp ((Category.eq_clean_iff _).mpr ⟨fun h => hfatal ⟨c, hc, h⟩, hcols c hc⟩)
    · exact hamCor_cat_eq_clean_iff.mp ((Category.eq_clean_iff _).mpr ⟨hamCor_gH15_cat_ne_uncorrectable _, hrows r hr⟩)
  · rintro ⟨hcols, hrows⟩
    have hclean := fun c hc => (Category.eq_clean_iff _).mp (hamCor_cat_eq_clean_iff.mpr (hcols c hc))
    have hnoCols : NoFlip params.gH13 columnIndex mx 15 := fun c hc => (hclean c hc).2
    refine ⟨fun ⟨c, hc, h⟩ => (hclean c hc).1 h, hnoCols, ?_⟩
    rw [((passDone_columnPass mx).kept_of_noFlip hnoCols).1]
    exact fun r hr => ((Category.eq_clean_iff _).mp (hamCor_cat_eq_clean_iff.mpr (hrows r hr))).2

end RepairLoop

theorem rspRep_eq (cat : Category) {cnt pos : Nat} (hcnt : cnt < 256) (hpos : pos < 256) :
    rspRep cat cnt pos = BitVec.ofNat 32 ((categoryCode cat).toNat * 2 ^ 30 + cnt * 2 ^ 16 + pos) := by
  apply BitVec.eq_of_toNat_eq
  have hcat := (categoryCode cat).isLt
  simp only [rspRep, toNat_append_eq_add, BitVec.toNat_ofNat, Nat.mod_eq_of_lt hcnt, Nat.mod_eq_of_lt hpos]
  omega

/-- The whole next state of `BPTC.REPAIR` (R351). -/
theorem exec_bptcRepair (s : State) :
    let a := repairLoop params s.block.mx
    exec .bptcRepair s = .next { s with
      block := { s.block with
        mx := a.mx, status := withResult s.block.status (categoryCode (repairCategory a)) a.pos a.cnt }
      out := some { rsp := BitVec.ofNat 32 ((categoryCode (repairCategory a)).toNat * 2 ^ 30 + a.cnt * 2 ^ 16 + a.pos)
                    err := false } } := by
  intro a
  obtain ⟨hcnt, hpos, -⟩ : RepairBounded 24 a := repairBounded_repairLoop params s.block.mx
  rw [← rspRep_eq _ (by omega) (by omega)]
  rfl

/-- Settles O60: `PassDone` for the column pass and for the row pass after it. -/
theorem repairOutcomes : Obligations.RepairOutcomes := by
  intro s
  have hcols := passDone_columnPass s.block.mx
  have hrows := passDone_repairLoop s.block.mx
  have hmx := repairLoop_mx_of_cnt_eq_zero s.block.mx
  obtain ⟨hcnt, hpos, hpos0⟩ := repairBounded_repairLoop params s.block.mx
  refine ⟨(columnPass s.block.mx).mx, (repairLoop params s.block.mx).mx,
    categoryCode (repairCategory (repairLoop params s.block.mx)), (repairLoop params s.block.mx).cnt,
    (repairLoop params s.block.mx).pos, exec_bptcRepair s, hcols.reserved, hcols.checked, hrows.reserved, hrows.checked,
    hrows.unchecked, ?cnt, ?rowPos, ?columnPos, hpos0, hcnt, hpos, categoryCode_ne_three _,
    ⟨fun h => ⟨hmx h, hpos0 h⟩, fun h => repairLoop_cnt_eq_zero_of_pos _ h.2⟩, ?uncorrectable, ?clean,
    ?unchanged, ?passes⟩
  case cnt => rw [hrows.cnt_eq, hcols.cnt_eq, Nat.zero_add]; rfl
  case rowPos => exact fun r hr hcat hlater => hrows.pos_eq_of_lastFlip ⟨hr, hcat, hlater⟩
  case columnPos =>
    intro hno c hc hcat hlater
    exact (hrows.kept_of_noFlip hno).2.trans (hcols.pos_eq_of_lastFlip ⟨hc, hcat, hlater⟩)
  case uncorrectable =>
    rw [categoryCode_eq_two_iff, repairCategory_eq_uncorrectable_iff, repairLoop_fatal_iff]
    simp only [hamCor_gH13_cat_eq_uncorrectable_iff]
  case clean => rw [categoryCode_eq_zero_iff, repairCategory_repairLoop_eq_clean_iff]
  case unchanged =>
    rw [categoryCode_eq_zero_iff, repairCategory_eq_clean_iff]
    exact fun ⟨_, h0⟩ => ⟨hmx h0, h0, hpos0 h0⟩
  case passes =>
    intro r hr
    exact (congrArg (hamSyn params.gH15) (hrows.checked r hr)).trans
      (hamSyn_hamCor_word (hamCor_gH15_cat_ne_uncorrectable _))

end Sys2Proof.Machine

/-! The Golay(20,8) and quadratic-residue(16,7) units (`43_golay_qr.md`). Both check with the syndrome of R220, so what is known
of it for any generator applies here; the two codes add their parity equations and their minimum distances. A check that does
not correct goes by whether the syndrome is zero (`replyChk_zero`, `replyChk_of_ne_zero`), and the words of syndrome zero are
the code words (`hamSyn_eq_zero_iff`). -/

namespace Sys2Proof.Machine

/-! ### The words of syndrome zero (R220) -/

section CodeWord
variable {k m : Nat}

theorem codeData_append_codeParity (w : BitVec (k + m)) : codeData k m w ++ codeParity k m w = w := by
  rw [codeData, codeParity, BitVec.extractLsb'_append_extractLsb'_eq_extractLsb' (by omega), BitVec.extractLsb'_eq_self]

variable {G : Vector (BitVec m) k}

/-- The words that pass the check are those made of data and their parity. -/
theorem hamSyn_eq_zero_iff {w : BitVec (k + m)} :
    hamSyn G w = 0#m ↔ codeData k m w ++ hamPar G (codeData k m w) = w := by
  constructor
  · intro h
    rw [BitVec.xor_eq_zero_iff.mp h, codeData_append_codeParity]
  · intro h
    rw [← h, hamSyn_append_hamPar]

/-- An error lighter than every code word of non-zero data has a non-zero syndrome. -/
theorem hamSyn_ne_zero_of_weight_lt {dist : Nat} (hdist : ∀ d : BitVec k, d ≠ 0#k → dist ≤ weight (d ++ hamPar G d))
    {e : BitVec (k + m)} (he : e ≠ 0#(k + m)) (hweight : weight e < dist) : hamSyn G e ≠ 0#m := by
  intro hsyn
  have hword := hamSyn_eq_zero_iff.mp hsyn
  have hdata : codeData k m e ≠ 0#k := by
    intro h0
    rw [h0, hamPar_zero, BitVec.zero_append_zero] at hword
    exact he hword.symm
  have hle := hdist _ hdata
  rw [hword] at hle
  exact absurd hweight (Nat.not_lt.mpr hle)

/-- In a word that passes the check, an error shows as its own syndrome. -/
theorem hamSyn_xor_of_syn_eq_zero {w : BitVec (k + m)} (hw : hamSyn G w = 0#m) (e : BitVec (k + m)) :
    hamSyn G (w ^^^ e) = hamSyn G e := by
  rw [hamSyn_xor, hw, BitVec.zero_xor]

end CodeWord

/-! ### The two generators (R260, R270) -/

/-- The parity equations of Golay(20,8) (R261), as the indices that they list. -/
theorem parityTaps_gGolay :
    parityTaps params.gGolay 0 = [1, 4, 5, 6, 7] ∧ parityTaps params.gGolay 1 = [1, 2, 4] ∧
    parityTaps params.gGolay 2 = [0, 2, 3, 5] ∧ parityTaps params.gGolay 3 = [0, 1, 3, 4, 6] ∧
    parityTaps params.gGolay 4 = [0, 1, 2, 4, 5, 7] ∧ parityTaps params.gGolay 5 = [0, 2, 3, 4, 7] ∧
    parityTaps params.gGolay 6 = [3, 6, 7] ∧ parityTaps params.gGolay 7 = [0, 1, 5, 6] ∧
    parityTaps params.gGolay 8 = [0, 1, 2, 6, 7] ∧ parityTaps params.gGolay 9 = [2, 3, 4, 5, 6] ∧
    parityTaps params.gGolay 10 = [0, 3, 4, 5, 6, 7] ∧ parityTaps params.gGolay 11 = [1, 2, 3, 5, 7] := by
  decide +kernel

/-- The parity equations of QR(16,7) (R271), as the indices that they list. -/
theorem parityTaps_gQr :
    parityTaps params.gQr 0 = [1, 2, 3, 4] ∧ parityTaps params.gQr 1 = [2, 3, 4, 5] ∧
    parityTaps params.gQr 2 = [0, 3, 4, 5, 6] ∧ parityTaps params.gQr 3 = [2, 3, 5, 6] ∧
    parityTaps params.gQr 4 = [1, 2, 6] ∧ parityTaps params.gQr 5 = [0, 1, 4] ∧
    parityTaps params.gQr 6 = [0, 1, 2, 5] ∧ parityTaps params.gQr 7 = [0, 1, 2, 3, 6] ∧
    parityTaps params.gQr 8 = [0, 2, 4, 5, 6] := by
  decide +kernel

/-- The code words of Golay(20,8) with non-zero data, 255 in all, have weight 8 or more (R262). -/
theorem eight_le_weight_golay :
    ∀ d : BitVec 8, d ≠ 0#8 → 8 ≤ weight (d ++ hamPar params.gGolay d) := by decide +kernel

/-- The code words of QR(16,7) with non-zero data, 127 in all, have weight 6 or more (R273). -/
theorem six_le_weight_qr :
    ∀ d : BitVec 7, d ≠ 0#7 → 6 ≤ weight (d ++ hamPar params.gQr d) := by decide +kernel

/-! ### The responses and the records (R120, R48) -/

theorem rspChk_eq {m : Nat} (hm : m ≤ 12) (cat : Category) (syn : BitVec m) :
    rspChk cat syn = BitVec.ofNat 32 ((categoryCode cat).toNat * 2 ^ 30 + syn.toNat) := by
  apply BitVec.eq_of_toNat_eq
  have hcat := (categoryCode cat).isLt
  have hsyn : syn.toNat < 2 ^ 12 := syn.isLt.trans_le (Nat.pow_le_pow_right (by decide) hm)
  simp only [rspChk, toNat_append_eq_add, BitVec.toNat_setWidth_of_le hm, BitVec.toNat_ofNat]
  omega

section Commands
variable (s : State)

theorem exec_golayPar (d : BitVec 8) :
    exec (.golayPar d) s = answerNext s ((hamPar params.gGolay d).setWidth 32) := rfl
theorem exec_qrPar (d : BitVec 7) : exec (.qrPar d) s = answerNext s ((hamPar params.gQr d).setWidth 32) := rfl
theorem exec_golayChk (w : BitVec 20) : exec (.golayChk w) s = s.replyChk (hamSyn params.gGolay w) := rfl

/-- The table entry of the data XOR the received parity is the syndrome of R220 (R275). -/
theorem exec_qrChk (w : BitVec 16) : exec (.qrChk w) s = s.replyChk (hamSyn params.gQr w) := rfl

/-- As a number, the answer of `QR.ENC` is the data moved up by nine places, plus the parity (R276). -/
theorem exec_qrEnc (d : BitVec 7) :
    exec (.qrEnc d) s = answerNext s (BitVec.ofNat 32 (d.toNat * 2 ^ 9 + (hamPar params.gQr d).toNat)) := by
  rw [← toNat_append_eq_add]
  exact reply_rspVal s _

section Answers
variable {m : Nat} (hm : m ≤ 12)
include hm

/-- A check records and answers as a correction does, with `POS` and `CNT` 0 (R48). -/
theorem replyChk_eq_corNext (syn : BitVec m) : s.replyChk syn =
    corNext s (categoryCode (checkCategory syn)) 0 0 ((categoryCode (checkCategory syn)).toNat * 2 ^ 30 + syn.toNat) := by
  rw [State.replyChk, rspChk_eq hm]
  rfl

theorem replyChk_zero : s.replyChk 0#m = corNext s 0 0 0 0 := by
  rw [replyChk_eq_corNext s hm, show checkCategory 0#m = .clean from if_pos rfl]
  simp

theorem replyChk_of_ne_zero {syn : BitVec m} (h : syn ≠ 0#m) :
    s.replyChk syn = corNext s 2 0 0 (2 * 2 ^ 30 + syn.toNat) := by
  rw [replyChk_eq_corNext s hm, show checkCategory syn = .uncorrectable from if_neg h]
  simp

/-- A check is clean exactly where the received parity is the recomputed one (R264, R275). -/
theorem replyChk_xor (q p : BitVec m) : s.replyChk (q ^^^ p) =
    corNext s (if p = q then 0 else 2) 0 0 ((if p = q then 0 else 2 * 2 ^ 30) + (q ^^^ p).toNat) := by
  by_cases h : p = q
  · rw [if_pos h, if_pos h, h, BitVec.xor_self, replyChk_zero s hm, BitVec.toNat_zero]
  · rw [if_neg h, if_neg h]
    exact replyChk_of_ne_zero s hm fun hxor => h (BitVec.xor_eq_zero_iff.mp hxor).symm

/-- A code word with an error lighter than the minimum distance is reported uncorrectable (R262, R273). -/
theorem exists_replyChk_of_weight_lt {k dist : Nat} {G : Vector (BitVec m) k}
    (hdist : ∀ d : BitVec k, d ≠ 0#k → dist ≤ weight (d ++ hamPar G d)) {w e : BitVec (k + m)} (hw : hamSyn G w = 0#m)
    (he : e ≠ 0#(k + m)) (hweight : weight e < dist) :
    ∃ t, s.replyChk (hamSyn G (w ^^^ e)) = .next t ∧ t.block.status.st = 2 := by
  rw [hamSyn_xor_of_syn_eq_zero hw, replyChk_of_ne_zero s hm (hamSyn_ne_zero_of_weight_lt hdist he hweight)]
  exact ⟨_, rfl, rfl⟩

end Answers

end Commands

/-! ### The obligations -/

/-- Settles O40: each printed equation is the list of its data bits. -/
theorem golayAndQrParityEquations : Obligations.GolayAndQrParityEquations := by
  intro s
  refine ⟨fun d => ⟨_, exec_golayPar s d, ?_⟩, fun d => ⟨_, exec_qrPar s d, exec_qrEnc s d, ?_⟩⟩
  · obtain ⟨h0, h1, h2, h3, h4, h5, h6, h7, h8, h9, h10, h11⟩ := parityTaps_gGolay
    exact ⟨getMsbD_hamPar d h0, getMsbD_hamPar d h1, getMsbD_hamPar d h2, getMsbD_hamPar d h3, getMsbD_hamPar d h4,
      getMsbD_hamPar d h5, getMsbD_hamPar d h6, getMsbD_hamPar d h7, getMsbD_hamPar d h8, getMsbD_hamPar d h9,
      getMsbD_hamPar d h10, getMsbD_hamPar d h11⟩
  · obtain ⟨h0, h1, h2, h3, h4, h5, h6, h7, h8⟩ := parityTaps_gQr
    exact ⟨getMsbD_hamPar d h0, getMsbD_hamPar d h1, getMsbD_hamPar d h2, getMsbD_hamPar d h3, getMsbD_hamPar d h4,
      getMsbD_hamPar d h5, getMsbD_hamPar d h6, getMsbD_hamPar d h7, getMsbD_hamPar d h8⟩

/-- Settles O41. -/
theorem checksAreCleanExactlyOnCodeWords : Obligations.ChecksAreCleanExactlyOnCodeWords := fun s =>
  ⟨fun d p => ⟨_, exec_golayPar s d, by rw [exec_golayChk, hamSyn_append]; exact replyChk_xor s (by decide) _ p⟩,
   fun d p => ⟨_, exec_qrPar s d, by rw [exec_qrChk, hamSyn_append]; exact replyChk_xor s (by decide) _ p⟩⟩

/-- Settles O42: the error is lighter than the minimum distance of its code. -/
theorem errorsBelowTheDistanceAreDetected : Obligations.ErrorsBelowTheDistanceAreDetected := fun s =>
  ⟨fun _ _ hw he hle => exists_replyChk_of_weight_lt s (by decide) eight_le_weight_golay hw he (Nat.lt_succ_of_le hle),
   fun _ _ hw he hle => exists_replyChk_of_weight_lt s (by decide) six_le_weight_qr hw he (Nat.lt_succ_of_le hle)⟩

end Sys2Proof.Machine

/-! The arithmetic of GF(2^8) (`44_reed_solomon.md` R290 to R296). A byte stands for its class modulo the field polynomial
(`gf`), XOR and `gf_mul` are the sum and the product of classes (`gf_xor`, `gf_gfMul`), and a byte is determined by its class
(`gf_injective`); so the laws of the field are those of the quotient ring. The powers of `0x02` are told apart by the order of
its class, and by counting they are all the non-zero bytes. -/

namespace Sys2Proof.Machine

open Polynomial

/-! ### The two loops of R291 -/

/-- The bits of `v`, moved up by `i` places of a register that holds them all. -/
theorem bitPoly_setWidth_shiftLeft {n m i : Nat} (v : BitVec n) (h : n + i ≤ m) :
    bitPoly (v.setWidth m <<< i) m = bitPoly v n * X ^ i := by
  ext k
  rw [coeff_mul_X_pow', coeff_bitPoly, coeff_bitPoly, BitVec.getLsbD_shiftLeft, BitVec.getLsbD_setWidth]
  by_cases hik : i ≤ k
  · by_cases hkn : k - i < n
    · simp [hik, hkn, show k < m by omega, show k - i < m by omega]
    · simp [hkn, BitVec.getLsbD_of_ge v _ (Nat.not_lt.mp hkn)]
  · simp [hik, Nat.not_le.mp hik]

/-- The first loop of R291 after the bits below `n` of `b`. -/
def gfProductUpTo (a b : Byte) (n : Nat) : BitVec 15 :=
  (List.range n).foldl (fun r i => if b.getLsbD i then r ^^^ (a.setWidth 15 <<< i) else r) 0#15

theorem gfProduct_eq_gfProductUpTo (a b : Byte) : gfProduct a b = gfProductUpTo a b 8 := rfl

theorem gfProductUpTo_succ (a b : Byte) (n : Nat) : gfProductUpTo a b (n + 1) =
    if b.getLsbD n then gfProductUpTo a b n ^^^ (a.setWidth 15 <<< n) else gfProductUpTo a b n := by
  rw [gfProductUpTo, List.range_succ, List.foldl_append]
  rfl

theorem bitPoly_gfProductUpTo (a b : Byte) {n : Nat} (hn : n ≤ 8) :
    bitPoly (gfProductUpTo a b n) 15 = bitPoly a 8 * bitPoly b n := by
  induction n with
  | zero => simp [gfProductUpTo]
  | succ n ih =>
    rw [gfProductUpTo_succ, bitPoly_succ b, mul_add, ← ih (by omega)]
    cases b.getLsbD n with
    | false => simp
    | true => rw [if_pos rfl, if_pos rfl, bitPoly_xor, bitPoly_setWidth_shiftLeft a (by omega)]

/-- The first loop of R291 multiplies the polynomials. -/
theorem bitPoly_gfProduct (a b : Byte) : bitPoly (gfProduct a b) 15 = bitPoly a 8 * bitPoly b 8 :=
  gfProduct_eq_gfProductUpTo a b ▸ bitPoly_gfProductUpTo a b le_rfl

/-- The second loop of R291 at bit `8 + k`. -/
def gfReduceBit (poly : BitVec 9) (r : BitVec 15) (k : Nat) : BitVec 15 :=
  if r.getLsbD (8 + k) then r ^^^ (poly.setWidth 15 <<< k) else r

theorem gfReduce_eq_foldl (poly : BitVec 9) (r : BitVec 15) :
    gfReduce poly r = (List.range 7).reverse.foldl (gfReduceBit poly) r := rfl

section Reduce
variable {poly : BitVec 9}

/-- With the high bit of the polynomial set, the step at a bit clears it and touches none above. -/
theorem getLsbD_gfReduceBit (h8 : poly.getLsbD 8 = true) {r : BitVec 15} {k : Nat} (hk : k < 7)
    (hr : ∀ i, 8 + k < i → r.getLsbD i = false) {i : Nat} (hi : 8 + k ≤ i) :
    (gfReduceBit poly r k).getLsbD i = false := by
  unfold gfReduceBit
  obtain hlt | rfl := Nat.lt_or_eq_of_le hi
  · have hpoly : poly.getLsbD (i - k) = false := BitVec.getLsbD_of_ge poly _ (by omega)
    split <;> simp [hr i hlt, hpoly]
  · split
    · next hbit =>
      rw [BitVec.getLsbD_xor, hbit, BitVec.getLsbD_shiftLeft, BitVec.getLsbD_setWidth, Nat.add_sub_cancel, h8]
      simp [show 8 + k < 15 by omega]
    · next hbit => simpa using hbit

/-- The steps from bit `7 + n` down to bit 8 clear all these bits. -/
theorem getLsbD_foldl_gfReduceBit (h8 : poly.getLsbD 8 = true) {n : Nat} (hn : n ≤ 7) {r : BitVec 15}
    (hr : ∀ i, 8 + n ≤ i → r.getLsbD i = false) {i : Nat} (hi : 8 ≤ i) :
    ((List.range n).reverse.foldl (gfReduceBit poly) r).getLsbD i = false := by
  induction n generalizing r with
  | zero => exact hr i hi
  | succ n ih =>
    rw [List.range_succ, List.reverse_append, List.reverse_singleton, List.singleton_append, List.foldl_cons]
    exact ih (by omega) fun i hi => getLsbD_gfReduceBit h8 hn (fun i hi => hr i (by omega)) hi

/-- The second loop of R291 leaves a byte. -/
theorem getLsbD_gfReduce (h8 : poly.getLsbD 8 = true) (r : BitVec 15) {i : Nat} (hi : 8 ≤ i) :
    (gfReduce poly r).getLsbD i = false := by
  rw [gfReduce_eq_foldl]
  exact getLsbD_foldl_gfReduceBit h8 le_rfl (fun i hi => BitVec.getLsbD_of_ge r i hi) hi

/-- A ring in which the polynomial is 0 does not see the second loop of R291. -/
theorem map_bitPoly_gfReduce {R : Type*} [CommRing R] {f : (ZMod 2)[X] →+* R} (hf : f (bitPoly poly 9) = 0)
    (r : BitVec 15) : f (bitPoly (gfReduce poly r) 15) = f (bitPoly r 15) := by
  have hstep (r : BitVec 15) {k : Nat} (hk : k < 7) :
      f (bitPoly (gfReduceBit poly r k) 15) = f (bitPoly r 15) := by
    unfold gfReduceBit
    split
    · rw [bitPoly_xor, bitPoly_setWidth_shiftLeft poly (by omega), map_add, map_mul, hf, zero_mul, add_zero]
    · rfl
  rw [gfReduce_eq_foldl]
  refine List.foldlRecOn (motive := fun r' => f (bitPoly r' 15) = f (bitPoly r 15)) _ _ rfl fun r' hr' k hk => ?_
  rw [hstep r' (by simpa using hk), hr']

end Reduce

/-- The low bits of a value whose other bits are 0 have its polynomial. -/
theorem bitPoly_setWidth {n m : Nat} {v : BitVec n} (hmn : m ≤ n) (h : ∀ i, m ≤ i → v.getLsbD i = false) :
    bitPoly (v.setWidth m) m = bitPoly v n := by
  ext k
  rw [coeff_bitPoly, coeff_bitPoly, BitVec.getLsbD_setWidth]
  by_cases hk : k < m
  · simp [hk, hk.trans_le hmn]
  · simp [hk, h k (Nat.not_lt.mp hk)]

/-! ### Bytes as elements of the field -/

/-- GF(2^8): the polynomials over GF(2) modulo the field polynomial, 0x11D (R291). -/
abbrev GF256 : Type := AdjoinRoot (crcGenerator 0x1D#8)

/-- The field element of a byte: the class of its polynomial (R290). -/
noncomputable def gf (v : Byte) : GF256 := modGen 0x1D#8 (bitPoly v 8)

/-- `α`, the class of `z` (R292). -/
noncomputable def gfAlpha : GF256 := gf 0x02

theorem bitPoly_gfPoly : bitPoly 0x11D#9 9 = crcGenerator 0x1D#8 := by
  simp [crcGenerator, bitPoly, Finset.sum_range_succ]
  ring

theorem crcGenerator_gfPoly : crcGenerator 0x1D#8 = X ^ 8 + X ^ 4 + X ^ 3 + X ^ 2 + 1 := by
  simp [crcGenerator, bitPoly, Finset.sum_range_succ]
  ring

theorem gf_injective : Function.Injective gf := fun _ _ h => eq_of_modGen_bitPoly_eq h

@[simp] theorem gf_inj {a b : Byte} : gf a = gf b ↔ a = b := gf_injective.eq_iff

theorem gf_zero : gf 0 = 0 := by rw [gf, show (0 : Byte) = 0#8 from rfl, bitPoly_zero, map_zero]

theorem gf_one : gf 1 = 1 := by simp [gf, bitPoly]

theorem gf_eq_zero_iff {a : Byte} : gf a = 0 ↔ a = 0 := by rw [← gf_zero, gf_inj]

@[simp] theorem gf_xor (a b : Byte) : gf (a ^^^ b) = gf a + gf b := by rw [gf, bitPoly_xor, map_add]; rfl

theorem nontrivial_gf : Nontrivial GF256 := ⟨gf 0, gf 1, gf_injective.ne (by decide)⟩

theorem gf_ne_zero_of_isUnit {x : GF256} (h : IsUnit x) : x ≠ 0 :=
  have := nontrivial_gf
  h.ne_zero

/-- `gf_mul` multiplies classes (R291). -/
theorem gf_gfMul (a b : Byte) : gf (gfMul 0x11D a b) = gf a * gf b := by
  have hzero : modGen 0x1D#8 (bitPoly 0x11D#9 9) = 0 := by rw [bitPoly_gfPoly, AdjoinRoot.mk_self]
  have hbyte : bitPoly (gfMul 0x11D a b) 8 = bitPoly (gfReduce 0x11D (gfProduct a b)) 15 :=
    bitPoly_setWidth (by decide) fun i hi => getLsbD_gfReduce (by decide) _ hi
  rw [gf, hbyte, map_bitPoly_gfReduce (poly := 0x11D) hzero, bitPoly_gfProduct, map_mul]
  rfl

theorem gf_add_self (x : GF256) : x + x = 0 := by
  have h : (1 : GF256) + 1 = 0 := by rw [← gf_one, ← gf_xor, BitVec.xor_self]; exact gf_zero
  rw [← one_mul x, ← add_mul, h, zero_mul]

/-- In GF(2^8) a difference is a sum (R290). -/
theorem gf_sub (x y : GF256) : x - y = x + y := by
  rw [sub_eq_add_neg, ← eq_neg_of_add_eq_zero_left (gf_add_self y)]

theorem gf_add_eq_zero_iff {x y : GF256} : x + y = 0 ↔ x = y := by
  rw [← gf_sub, sub_eq_zero]

/-! ### The powers of `α` -/

theorem gf_gfPow (i : Nat) : gf (gfPow 0x11D i) = gfAlpha ^ i := by
  induction i with
  | zero => exact gf_one
  | succ i ih => rw [gfPow_succ, gf_gfMul, ih, pow_succ]; rfl

theorem gfPow_255 : gfPow 0x11D 255 = 1 := by decide +kernel

/-- `α` has order 255 = 3 · 5 · 17 (R295): its powers 85, 51 and 15 are not 1. -/
theorem orderOf_gfAlpha : orderOf gfAlpha = 255 := by
  have hne : gfPow 0x11D 85 ≠ 1 ∧ gfPow 0x11D 51 ≠ 1 ∧ gfPow 0x11D 15 ≠ 1 := by decide +kernel
  have hpow (i : Nat) : gfAlpha ^ i = 1 ↔ gfPow 0x11D i = 1 := by rw [← gf_gfPow, ← gf_one, gf_inj]
  refine orderOf_eq_of_pow_and_pow_div_prime (by decide) ((hpow 255).mpr gfPow_255) fun p hp hdvd => ?_
  have hmem : p ∈ Nat.primeFactorsList 255 := (Nat.mem_primeFactorsList (by decide)).mpr ⟨hp, hdvd⟩
  have hfactors : Nat.primeFactorsList 255 = [3, 5, 17] := by simp only [Nat.primeFactorsList_ofNat]
  obtain ⟨h85, h51, h15⟩ := hne
  rw [hfactors] at hmem
  rw [Ne, hpow]
  obtain rfl | rfl | rfl : p = 3 ∨ p = 5 ∨ p = 17 := by simpa using hmem
  · exact h85
  · exact h51
  · exact h15

theorem gfPow_injOn {i j : Nat} (hi : i < 255) (hj : j < 255) (h : gfPow 0x11D i = gfPow 0x11D j) : i = j := by
  have hpow : gfAlpha ^ i = gfAlpha ^ j := by rw [← gf_gfPow, h, gf_gfPow]
  exact pow_injOn_Iio_orderOf (by simpa [orderOf_gfAlpha]) (by simpa [orderOf_gfAlpha]) hpow

theorem gfAlpha_pow_255 : gfAlpha ^ 255 = 1 := orderOf_gfAlpha ▸ pow_orderOf_eq_one gfAlpha

theorem isUnit_gfAlpha : IsUnit gfAlpha := IsUnit.of_pow_eq_one gfAlpha_pow_255 (by decide)

theorem gfPow_ne_zero (i : Nat) : gfPow 0x11D i ≠ 0 := by
  rw [Ne, ← gf_eq_zero_iff, gf_gfPow]
  exact gf_ne_zero_of_isUnit (isUnit_gfAlpha.pow i)

/-- The 255 powers are distinct and non-zero, so they are all the non-zero bytes (R295). -/
theorem exists_gfPow_eq {v : Byte} (hv : v ≠ 0) : ∃ i < 255, gfPow 0x11D i = v := by
  have himage : (Finset.range 255).image (gfPow 0x11D) = Finset.univ.erase 0 := by
    refine Finset.eq_of_subset_of_card_le (fun v hv => ?_) ?_
    · obtain ⟨i, -, rfl⟩ := Finset.mem_image.mp hv
      exact Finset.mem_erase.mpr ⟨gfPow_ne_zero i, Finset.mem_univ _⟩
    · have hinj : Set.InjOn (gfPow 0x11D) (Finset.range 255) := fun i hi j hj h =>
        gfPow_injOn (by simpa using hi) (by simpa using hj) h
      rw [Finset.card_image_of_injOn hinj, Finset.card_range, Finset.card_erase_of_mem (Finset.mem_univ _),
        Finset.card_univ, ← FinEnum.card_eq_fintypeCard, FinEnum.card_bitVec]
      norm_num
  have hmem : v ∈ (Finset.range 255).image (gfPow 0x11D) := himage ▸ Finset.mem_erase.mpr ⟨hv, Finset.mem_univ v⟩
  obtain ⟨i, hi, rfl⟩ := Finset.mem_image.mp hmem
  exact ⟨i, Finset.mem_range.mp hi, rfl⟩

theorem isUnit_gf {v : Byte} (hv : v ≠ 0) : IsUnit (gf v) := by
  obtain ⟨i, -, rfl⟩ := exists_gfPow_eq hv
  exact gf_gfPow i ▸ isUnit_gfAlpha.pow i

/-! ### The tables of R292 and the division of R293 -/

/-- Entry 255 of `ROM.EXP` is power 255 too. -/
theorem romExp_eq_gfPow (i : Nat) : romExp 0x11D i = gfPow 0x11D i := by
  unfold romExp
  split
  · next h => rw [h, gfPow_255]
  · rfl

/-- The walk of `ROM.LOG` up from `α^i` stops at the exponent it looks for. -/
theorem gfLogFrom_gfPow {i k fuel : Nat} (hik : i ≤ k) (hfuel : k < i + fuel) (hk : k < 255) :
    gfLogFrom 0x11D (gfPow 0x11D k) (gfPow 0x11D i) i fuel = k := by
  induction fuel generalizing i with
  | zero => omega
  | succ fuel ih =>
    rw [gfLogFrom]
    by_cases h : i = k
    · rw [h, if_pos rfl]
    · rw [if_neg fun hpow => h (gfPow_injOn (by omega) hk hpow), ← gfPow_succ, ih (by omega) (by omega)]

theorem romLog_gfPow {k : Nat} (hk : k < 255) : romLog 0x11D (gfPow 0x11D k) = k := by
  rw [romLog, if_neg (gfPow_ne_zero k)]
  exact gfLogFrom_gfPow (Nat.zero_le k) (by omega) hk

theorem romLog_lt {v : Byte} (hv : v ≠ 0) : romLog 0x11D v < 255 := by
  obtain ⟨k, hk, rfl⟩ := exists_gfPow_eq hv
  rwa [romLog_gfPow hk]

theorem gfPow_romLog {v : Byte} (hv : v ≠ 0) : gfPow 0x11D (romLog 0x11D v) = v := by
  obtain ⟨k, hk, rfl⟩ := exists_gfPow_eq hv
  rw [romLog_gfPow hk]

theorem gf_mul_gfInv {a : Byte} (ha : a ≠ 0) : gf a * gf (gfInv 0x11D a) = 1 := by
  obtain ⟨k, hk, rfl⟩ := exists_gfPow_eq ha
  have hmod : gfAlpha ^ ((255 - k) % 255) = gfAlpha ^ (255 - k) := orderOf_gfAlpha ▸ pow_mod_orderOf gfAlpha (255 - k)
  rw [gfInv, romExp_eq_gfPow, romLog_gfPow hk, gf_gfPow, gf_gfPow, hmod, ← pow_add, Nat.add_sub_cancel' hk.le,
    gfAlpha_pow_255]

/-- Division undoes multiplication (R293). -/
theorem gf_gfDiv_mul (b : Byte) {a : Byte} (ha : a ≠ 0) : gf (gfDiv 0x11D b a) * gf a = gf b := by
  rw [gfDiv, gf_gfMul, mul_assoc, mul_comm _ (gf a), gf_mul_gfInv ha, mul_one]

theorem gfDiv_eq_of_mul_eq {a b c : Byte} (ha : a ≠ 0) (h : gf c * gf a = gf b) : gfDiv 0x11D b a = c := by
  apply gf_injective
  rw [← (isUnit_gf ha).mul_left_inj, gf_gfDiv_mul b ha, h]

/-! ### The field commands -/

section FieldCommands
variable (s : State)

theorem exec_rsMul (a b : Byte) : exec (.rsMul a b) s = answerNext s ((gfMul 0x11D a b).setWidth 32) := rfl

theorem exec_rsExp (i : Byte) : exec (.rsExp i) s = answerNext s ((gfPow 0x11D i.toNat).setWidth 32) := by
  rw [← romExp_eq_gfPow]; rfl

theorem exec_rsLog_zero : exec (.rsLog 0) s = answerNext s 0x80000000 := rfl

theorem exec_rsLog {v : Byte} (hv : v ≠ 0) : exec (.rsLog v) s = answerNext s (BitVec.ofNat 32 (romLog 0x11D v)) := by
  have h : exec (.rsLog v) s = answerNext s (rspIdx (if v = 0 then none else some (romLog 0x11D v))) := rfl
  rw [h, if_neg hv, rspIdx]

theorem exec_rsLog_gfPow {i : Byte} (hi : i ≠ 255) :
    exec (.rsLog (gfPow 0x11D i.toNat)) s = answerNext s (i.setWidth 32) := by
  have hlt : i.toNat < 255 := by bv_omega
  rw [exec_rsLog s (gfPow_ne_zero _), romLog_gfPow hlt, BitVec.ofNat_toNat]

end FieldCommands

/-! ### The obligations on bytes and the field -/

/-- Settles O43: the equations of the two commands at a legal index, and the range check at any other. -/
theorem rsBytesLoadAndRead : Obligations.RsBytesLoadAndRead := by
  intro s i b
  refine ⟨toNat_encode _, toNat_encode _, fun k hk => ?legal, fun hi => ?illegal⟩
  case legal =>
    obtain ⟨k, hlt⟩ := k
    obtain rfl : k = i.toNat := hk
    have hi : i.toNat ≤ 11 := Nat.le_of_lt_succ hlt
    refine ⟨⟨_, exec_rsLd s b hi, fun j => ?_⟩, exec_rsRd s hi⟩
    rw [Fin.getElem_fin, Vector.getElem_set]
    simp only [Fin.ext_iff, eq_comm (a := i.toNat)]
    rfl
  case illegal =>
    have hrange := legalIndex12_eq_false_iff.mpr hi
    exact ⟨outOfRangeOperandIsIllegal (.rsLd i b) s hrange, outOfRangeOperandIsIllegal (.rsRd i) s hrange⟩

/-- Settles O44: the product is a byte of the class of the product. -/
theorem fieldProductIsAPolynomialRemainder : Obligations.FieldProductIsAPolynomialRemainder := by
  intro s a b
  refine ⟨toNat_encode _, _, exec_rsMul s a b, crcGenerator_gfPoly ▸ bitPoly_eq_modByMonic ?_⟩
  rw [map_mul]
  exact gf_gfMul a b

/-- Settles O45: the laws are those of the quotient ring, and the powers are told apart by the order of `α`. -/
theorem fieldLaws : Obligations.FieldLaws := by
  refine ⟨exec_rsMul, exec_rsExp, fun a b => ?comm, fun a b c => ?assoc, fun a b c => ?distrib, fun a => ⟨?one, ?zero⟩,
    fun a ha => ⟨gfInv 0x11D a, ?inv, fun b hb => ?unique⟩, fun i j => gfPow_injOn, gfPow_255⟩ <;> apply gf_injective
  case comm => rw [gf_gfMul, gf_gfMul, mul_comm]
  case assoc => rw [gf_gfMul, gf_gfMul, gf_gfMul, gf_gfMul, mul_assoc]
  case distrib => rw [gf_gfMul, gf_xor, gf_xor, gf_gfMul, gf_gfMul, mul_add]
  case one => rw [gf_gfMul, gf_one, mul_one]
  case zero => rw [gf_gfMul, gf_zero, mul_zero]
  case inv => rw [gf_gfMul, gf_mul_gfInv ha, gf_one]
  case unique =>
    have hab : gf a * gf b = 1 := by rw [← gf_gfMul, hb, gf_one]
    rw [← (isUnit_gf ha).mul_right_inj, hab, gf_mul_gfInv ha]

/-- Settles O46: `ROM.LOG` finds the one exponent of each non-zero byte. -/
theorem expAndLogAreInverse : Obligations.ExpAndLogAreInverse := by
  intro s
  refine ⟨fun i => ⟨_, exec_rsExp s i, ?exp_zero, ?exp_255, exec_rsLog_gfPow s, fun hi => ?exp_succ⟩, fun v hv => ?log,
    exec_rsLog_zero s⟩
  case exp_zero => rintro rfl; rfl
  case exp_255 => rintro rfl; exact gfPow_255
  case exp_succ =>
    have hsucc : (i + 1).toNat = i.toNat + 1 := by bv_omega
    rw [exec_rsExp, hsucc, gfPow_succ]
  case log =>
    have hlt := romLog_lt hv
    have hk : (BitVec.ofNat 8 (romLog 0x11D v)).toNat = romLog 0x11D v := by
      rw [BitVec.toNat_ofNat, Nat.mod_eq_of_lt (by omega)]
    refine ⟨BitVec.ofNat 8 (romLog 0x11D v), fun h => ?_, ?_, ?_⟩
    · rw [h] at hk
      exact absurd hk.symm hlt.ne
    · rw [exec_rsLog s hv, ← BitVec.ofNat_toNat, hk]
    · rw [exec_rsExp, hk, gfPow_romLog hv]

end Sys2Proof.Machine

/-! The Reed-Solomon(12,9) unit (`44_reed_solomon.md` R300 to R317). The syndromes are the power sums of the word at the
locators of its bytes (`gf_rsSyndrome`). Code words that differ at three bytes or fewer are equal (`RsCodeWord.eq_of_card_le`),
and what the decoder does is a matter of whether changing one byte gives a code word (`rsDecode_of_error`,
`rsDecode_of_not_rsCodeWord`). -/

namespace Sys2Proof.Machine

open Polynomial

/-! ### Locators and power sums (R302, R305) -/

/-- The locator of byte `p`, the coefficient of degree `11 - p`: `α^(11-p)` (R305). -/
noncomputable def gfLocator (p : Fin 12) : GF256 := gfAlpha ^ (11 - p.val)

theorem gf_gfPow_locator (p : Fin 12) : gf (gfPow 0x11D (11 - p.val)) = gfLocator p := gf_gfPow _

theorem isUnit_gfLocator (p : Fin 12) : IsUnit (gfLocator p) := isUnit_gfAlpha.pow _

theorem isUnit_gfLocator_sub {p q : Fin 12} (h : p ≠ q) : IsUnit (gfLocator p - gfLocator q) := by
  rw [gf_sub, ← gf_gfPow_locator, ← gf_gfPow_locator, ← gf_xor]
  refine isUnit_gf fun hzero => h ?_
  have hexp := gfPow_injOn (by omega) (by omega) (BitVec.xor_eq_zero_iff.mp hzero)
  omega

/-- The value of the word's polynomial at `α^j`, as a sum over its bytes (R302). -/
noncomputable def powerSum (w : Vector Byte 12) (j : Nat) : GF256 := ∑ i : Fin 12, gf w[i] * gfLocator i ^ j

/-- Horner's rule from an accumulator on: the terms of the bytes by degree, and the accumulator moved past them. -/
theorem gf_foldl_horner (b : Byte) (l : List Byte) (acc : Byte) :
    gf (l.foldl (fun acc x => gfMul 0x11D acc b ^^^ x) acc) =
      gf acc * gf b ^ l.length + ∑ i ∈ Finset.range l.length, gf (l.getD i 0) * gf b ^ (l.length - 1 - i) := by
  induction l generalizing acc with
  | nil => simp
  | cons x l ih =>
    have hdegree : ∀ i ∈ Finset.range l.length, l.length + 1 - 1 - (i + 1) = l.length - 1 - i := fun i _ => by omega
    rw [List.foldl_cons, ih, gf_xor, gf_gfMul, List.length_cons, Finset.sum_range_succ', List.getD_cons_zero]
    have hterms : ∑ i ∈ Finset.range l.length, gf ((x :: l).getD (i + 1) 0) * gf b ^ (l.length + 1 - 1 - (i + 1)) =
        ∑ i ∈ Finset.range l.length, gf (l.getD i 0) * gf b ^ (l.length - 1 - i) :=
      Finset.sum_congr rfl fun i hi => by rw [List.getD_cons_succ, hdegree i hi]
    rw [hterms, Nat.add_sub_cancel, Nat.sub_zero]
    ring

theorem gf_romExp (j : Nat) : gf (romExp 0x11D j) = gfAlpha ^ j := by rw [romExp_eq_gfPow, gf_gfPow]

/-- The syndromes are the power sums (R305). -/
theorem gf_rsSyndrome (w : Vector Byte 12) (j : Nat) : gf (rsSyndrome 0x11D w.toList j) = powerSum w j := by
  rw [rsSyndrome, gf_foldl_horner, gf_zero, zero_mul, zero_add, Vector.length_toList, Finset.sum_range, gf_romExp]
  refine Finset.sum_congr rfl fun i _ => ?_
  have hbyte : w.toList.getD i 0 = w[i] := by simp
  rw [hbyte, gfLocator, ← pow_mul, ← pow_mul, Nat.mul_comm]

/-- A XOR of bytes is the sum of their classes. -/
theorem gf_foldl_xor (f : Nat → Byte) (n : Nat) :
    gf ((List.range n).foldl (fun acc i => acc ^^^ f i) 0) = ∑ i ∈ Finset.range n, gf (f i) := by
  induction n with
  | zero => simp only [List.range_zero, List.foldl_nil, gf_zero, Finset.sum_range_zero]
  | succ n ih =>
    rw [List.range_succ, List.foldl_append, List.foldl_cons, List.foldl_nil, gf_xor, ih, Finset.sum_range_succ]

/-- The syndrome as the sum of the spec's closed form (R302, R305). -/
theorem rsSyndrome_eq_foldl_xor (w : Vector Byte 12) (j : Nat) : rsSyndrome 0x11D w.toList j =
    (List.range 12).foldl (fun acc i => acc ^^^ gfMul 0x11D (w.toList.getD i 0) (gfPow 0x11D (j * (11 - i)))) 0 := by
  apply gf_injective
  rw [gf_foldl_xor, gf_rsSyndrome, powerSum, Finset.sum_range]
  refine Finset.sum_congr rfl fun i _ => ?_
  have hbyte : w.toList.getD i 0 = w[i] := by simp
  rw [hbyte, gf_gfMul, gf_gfPow, gfLocator, ← pow_mul, Nat.mul_comm]

/-! ### Code words -/

/-- The code words: the words whose three syndromes are 0 (R302). -/
def RsCodeWord (w : Vector Byte 12) : Prop := powerSum w 1 = 0 ∧ powerSum w 2 = 0 ∧ powerSum w 3 = 0

theorem rsCodeWord_iff {w : Vector Byte 12} : RsCodeWord w ↔ rsSyndrome 0x11D w.toList 1 = 0 ∧
    rsSyndrome 0x11D w.toList 2 = 0 ∧ rsSyndrome 0x11D w.toList 3 = 0 := by
  simp only [RsCodeWord, ← gf_rsSyndrome, gf_eq_zero_iff]

/-- Byte `p` of the word changed by the magnitude `e`. -/
abbrev changeByte (w : Vector Byte 12) (p : Fin 12) (e : Byte) : Vector Byte 12 := w.set p.val (w[p] ^^^ e) p.isLt

theorem getElem_changeByte (w : Vector Byte 12) (p i : Fin 12) (e : Byte) :
    (changeByte w p e)[i] = if i = p then w[i] ^^^ e else w[i] := by
  rw [Fin.getElem_fin, Vector.getElem_set]
  by_cases h : i = p
  · rw [h, if_pos rfl, if_pos rfl]
  · rw [if_neg h, if_neg fun hval => h (Fin.ext hval.symm)]
    rfl

@[simp] theorem changeByte_changeByte (w : Vector Byte 12) (p : Fin 12) (e : Byte) :
    changeByte (changeByte w p e) p e = w := by
  refine Vector.ext fun i hi => ?_
  have hbyte (i : Fin 12) : (changeByte (changeByte w p e) p e)[i] = w[i] := by
    rw [getElem_changeByte, getElem_changeByte]
    split
    · rw [BitVec.xor_assoc, BitVec.xor_self, BitVec.xor_zero]
    · rfl
  exact hbyte ⟨i, hi⟩

/-- An error adds its magnitude times the power of its locator (R305). -/
theorem powerSum_changeByte (w : Vector Byte 12) (p : Fin 12) (e : Byte) (j : Nat) :
    powerSum (changeByte w p e) j = powerSum w j + gf e * gfLocator p ^ j := by
  have hterm (i : Fin 12) : gf (changeByte w p e)[i] * gfLocator i ^ j =
      gf w[i] * gfLocator i ^ j + if i = p then gf e * gfLocator i ^ j else 0 := by
    rw [getElem_changeByte]
    split
    · rw [gf_xor, add_mul]
    · rw [add_zero]
  rw [powerSum, Finset.sum_congr rfl fun i _ => hterm i, Finset.sum_add_distrib, Finset.sum_ite_eq', if_pos (Finset.mem_univ p),
    powerSum]

/-- A change of one byte gives a code word where the syndromes are those of that error. -/
theorem rsCodeWord_changeByte_iff {w : Vector Byte 12} {p : Fin 12} {e : Byte} : RsCodeWord (changeByte w p e) ↔
    powerSum w 1 = gf e * gfLocator p ^ 1 ∧ powerSum w 2 = gf e * gfLocator p ^ 2 ∧
      powerSum w 3 = gf e * gfLocator p ^ 3 := by
  simp only [RsCodeWord, powerSum_changeByte, gf_add_eq_zero_iff]

/-! ### The distance of two code words (R307 (a)) -/

/-- The indices at which two words differ. -/
def diffIndices (u v : Vector Byte 12) : Finset (Fin 12) := Finset.univ.filter fun i => u[i] ≠ v[i]

theorem mem_diffIndices {u v : Vector Byte 12} {i : Fin 12} : i ∈ diffIndices u v ↔ u[i] ≠ v[i] := by simp [diffIndices]

theorem countP_eq_card_diffIndices (u v : Vector Byte 12) :
    (List.finRange 12).countP (fun i : Fin 12 => decide (u[i] ≠ v[i])) = (diffIndices u v).card := by
  rw [List.countP_eq_length_filter]
  rfl

theorem diffIndices_self (u : Vector Byte 12) : diffIndices u u = ∅ := by simp [diffIndices]

theorem eq_of_diffIndices_eq_empty {u v : Vector Byte 12} (h : diffIndices u v = ∅) : u = v := by
  refine Vector.ext fun i hi => ?_
  have hmem : (⟨i, hi⟩ : Fin 12) ∉ diffIndices u v := h ▸ Finset.notMem_empty _
  rw [mem_diffIndices, not_not] at hmem
  exact hmem

theorem diffIndices_changeByte_subset (u v : Vector Byte 12) (p : Fin 12) (e : Byte) :
    diffIndices (changeByte u p e) v ⊆ insert p (diffIndices u v) := by
  intro i hi
  rw [mem_diffIndices, getElem_changeByte] at hi
  by_cases h : i = p
  · exact Finset.mem_insert.mpr (.inl h)
  · rw [if_neg h] at hi
    exact Finset.mem_insert_of_mem (mem_diffIndices.mpr hi)

theorem card_diffIndices_changeByte_le (u v : Vector Byte 12) (p : Fin 12) (e : Byte) :
    (diffIndices (changeByte u p e) v).card ≤ (diffIndices u v).card + 1 :=
  (Finset.card_le_card (diffIndices_changeByte_subset u v p e)).trans (Finset.card_insert_le _ _)

/-- Weights whose sums with the first `n` powers vanish, vanish against every polynomial of degree below `n`. -/
theorem sum_mul_eval_eq_zero {R ι : Type*} [CommRing R] [Fintype ι] {c x : ι → R} {n : Nat}
    (h : ∀ k < n, ∑ i, c i * x i ^ k = 0) {f : R[X]} (hf : f.natDegree < n) : ∑ i, c i * f.eval (x i) = 0 := by
  calc ∑ i, c i * f.eval (x i)
      = ∑ i, ∑ k ∈ Finset.range n, f.coeff k * (c i * x i ^ k) := by
        refine Finset.sum_congr rfl fun i _ => ?_
        rw [eval_eq_sum_range' hf, Finset.mul_sum]
        exact Finset.sum_congr rfl fun k _ => mul_left_comm _ _ _
    _ = ∑ k ∈ Finset.range n, f.coeff k * ∑ i, c i * x i ^ k := by
        rw [Finset.sum_comm]
        exact Finset.sum_congr rfl fun k _ => (Finset.mul_sum _ _ _).symm
    _ = 0 := Finset.sum_eq_zero fun k hk => by rw [h k (Finset.mem_range.mp hk), mul_zero]

/-- The polynomial that is 0 at the locators of the indices in `T`, and only there. -/
noncomputable def locatorPoly (T : Finset (Fin 12)) : GF256[X] := ∏ q ∈ T, (X - C (gfLocator q))

theorem natDegree_locatorPoly (T : Finset (Fin 12)) : (locatorPoly T).natDegree = T.card := by
  have : Nontrivial GF256 := nontrivial_gf
  exact natDegree_finsetProd_X_sub_C_eq_card T gfLocator

theorem eval_locatorPoly_of_mem {T : Finset (Fin 12)} {i : Fin 12} (hi : i ∈ T) :
    (locatorPoly T).eval (gfLocator i) = 0 := by
  rw [locatorPoly, eval_prod]
  exact Finset.prod_eq_zero hi (by simp)

theorem isUnit_eval_locatorPoly {T : Finset (Fin 12)} {i : Fin 12} (hi : i ∉ T) :
    IsUnit ((locatorPoly T).eval (gfLocator i)) := by
  rw [locatorPoly, eval_prod]
  refine Finset.prod_induction _ IsUnit (fun _ _ => IsUnit.mul) isUnit_one fun q hq => ?_
  rw [eval_sub, eval_X, eval_C]
  exact isUnit_gfLocator_sub fun h => hi (h ▸ hq)

theorem powerSum_add_powerSum (u v : Vector Byte 12) (j : Nat) :
    powerSum u j + powerSum v j = ∑ i : Fin 12, gf (u[i] ^^^ v[i]) * gfLocator i ^ j := by
  simp only [powerSum, gf_xor, add_mul, Finset.sum_add_distrib]

/-- The differences of two code words, each times its locator, vanish against the powers below 3 of the locators. -/
theorem RsCodeWord.sum_differences {u v : Vector Byte 12} (hu : RsCodeWord u) (hv : RsCodeWord v) :
    ∀ k < 3, ∑ i : Fin 12, gf (u[i] ^^^ v[i]) * gfLocator i * gfLocator i ^ k = 0 := by
  obtain ⟨hu1, hu2, hu3⟩ := hu
  obtain ⟨hv1, hv2, hv3⟩ := hv
  intro k hk
  simp only [mul_assoc, ← pow_succ', ← powerSum_add_powerSum]
  interval_cases k
  · rw [hu1, hv1, add_zero]
  · rw [hu2, hv2, add_zero]
  · rw [hu3, hv3, add_zero]

/-- Against the polynomial that is 0 at the other differing locators, the differences leave the term of `p` alone. -/
theorem sum_differences_eval_locatorPoly (u v : Vector Byte 12) (p : Fin 12) :
    ∑ i : Fin 12, gf (u[i] ^^^ v[i]) * gfLocator i * (locatorPoly ((diffIndices u v).erase p)).eval (gfLocator i) =
      gf (u[p] ^^^ v[p]) * gfLocator p * (locatorPoly ((diffIndices u v).erase p)).eval (gfLocator p) := by
  refine Finset.sum_eq_single p (fun i _ hip => ?_) fun h => absurd (Finset.mem_univ p) h
  by_cases hi : i ∈ diffIndices u v
  · rw [eval_locatorPoly_of_mem (Finset.mem_erase.mpr ⟨hip, hi⟩), mul_zero]
  · rw [mem_diffIndices, not_not] at hi
    rw [hi, BitVec.xor_self, show (0#8 : Byte) = 0 from rfl, gf_zero, zero_mul, zero_mul]

/-- Code words that differ at three indices or fewer are equal: if they differed at `p`, the polynomial that is 0 at the other
differing locators would have degree below 3, and the term of `p` that it leaves is not 0. -/
theorem RsCodeWord.eq_of_card_le {u v : Vector Byte 12} (hu : RsCodeWord u) (hv : RsCodeWord v)
    (hcard : (diffIndices u v).card ≤ 3) : u = v := by
  by_contra hne
  obtain ⟨p, hp⟩ := Finset.nonempty_iff_ne_empty.mpr (mt eq_of_diffIndices_eq_empty hne)
  have hdegree : (locatorPoly ((diffIndices u v).erase p)).natDegree < 3 := by
    have hpos := Finset.card_pos.mpr ⟨p, hp⟩
    rw [natDegree_locatorPoly, Finset.card_erase_of_mem hp]
    omega
  have hbyte : u[p] ^^^ v[p] ≠ 0 := fun h => mem_diffIndices.mp hp (BitVec.xor_eq_zero_iff.mp h)
  have hunit := ((isUnit_gf hbyte).mul (isUnit_gfLocator p)).mul
    (isUnit_eval_locatorPoly (Finset.notMem_erase p (diffIndices u v)))
  have hsum := sum_mul_eval_eq_zero (hu.sum_differences hv) hdegree
  rw [sum_differences_eval_locatorPoly] at hsum
  exact gf_ne_zero_of_isUnit hunit hsum

/-! ### The encoder (R303, R304) -/

/-- The value of the remainder that the cells hold. -/
noncomputable def RsCells.value (q : RsCells) (β : GF256) : GF256 := gf q.q2 * β ^ 2 + gf q.q1 * β + gf q.q0

/-- `β` is a root of the generator polynomial (R300). -/
def GeneratorRoot (β : GF256) : Prop := β ^ 3 = gf 0x0E * β ^ 2 + gf 0x38 * β + gf 0x40

/-- The roots of the generator (R301). -/
theorem generatorRoot_gfAlpha_pow {j : Nat} (h1 : 1 ≤ j) (h3 : j ≤ 3) : GeneratorRoot (gfAlpha ^ j) := by
  have hbytes : ∀ j < 4, 1 ≤ j → gfPow 0x11D (j * 3) =
      gfMul 0x11D 0x0E (gfPow 0x11D (j * 2)) ^^^ gfMul 0x11D 0x38 (gfPow 0x11D j) ^^^ 0x40 := by decide +kernel
  have h := congrArg gf (hbytes j (by omega) h1)
  rwa [gf_xor, gf_xor, gf_gfMul, gf_gfMul, gf_gfPow, gf_gfPow, gf_gfPow, pow_mul, pow_mul] at h

/-- A step of the LFSR multiplies by `x`, adds the data byte at `x^3`, and reduces by the generator (R303, R304). -/
theorem RsCells.value_rsLfsrStep {β : GF256} (hβ : GeneratorRoot β) (q : RsCells) (m : Byte) :
    (rsLfsrStep 0x11D params.rsGen q m).value β = q.value β * β + gf m * β ^ 3 := by
  have hstep : rsLfsrStep 0x11D params.rsGen q m =
    ⟨q.q1 ^^^ gfMul 0x11D 0x0E (m ^^^ q.q2), q.q0 ^^^ gfMul 0x11D 0x38 (m ^^^ q.q2), gfMul 0x11D 0x40 (m ^^^ q.q2)⟩ := rfl
  rw [hstep]
  simp only [RsCells.value, gf_xor, gf_gfMul]
  calc (gf q.q1 + gf 0x0E * (gf m + gf q.q2)) * β ^ 2 + (gf q.q0 + gf 0x38 * (gf m + gf q.q2)) * β +
        gf 0x40 * (gf m + gf q.q2)
      = gf q.q1 * β ^ 2 + gf q.q0 * β + (gf m + gf q.q2) * (gf 0x0E * β ^ 2 + gf 0x38 * β + gf 0x40) := by ring
    _ = gf q.q1 * β ^ 2 + gf q.q0 * β + (gf m + gf q.q2) * β ^ 3 := by rw [← hβ]
    _ = (gf q.q2 * β ^ 2 + gf q.q1 * β + gf q.q0) * β + gf m * β ^ 3 := by ring

/-- The cells hold the value of the data bytes read so far, moved up by three degrees (R304). -/
theorem value_rsParity {j : Nat} (hβ : GeneratorRoot (gfAlpha ^ j)) (m : List Byte) :
    (rsParity 0x11D params.rsGen m).value (gfAlpha ^ j) = gf (rsSyndrome 0x11D m j) * (gfAlpha ^ j) ^ 3 := by
  induction m using List.reverseRecOn with
  | nil =>
    have hstart : (rsParity 0x11D params.rsGen []).value (gfAlpha ^ j) = 0 := by
      simp only [rsParity, List.foldl_nil, RsCells.value, gf_zero]
      ring
    rw [hstart, rsSyndrome, List.foldl_nil, gf_zero, zero_mul]
  | append_singleton m x ih =>
    rw [rsParity, List.foldl_append, ← rsParity, List.foldl_cons, List.foldl_nil, RsCells.value_rsLfsrStep hβ, ih]
    rw [rsSyndrome, rsSyndrome, List.foldl_append, List.foldl_cons, List.foldl_nil, gf_xor, gf_gfMul, gf_romExp]
    ring

/-- Data bytes with the cells of the LFSR after them are a multiple of the generator (R304). -/
theorem rsSyndrome_append_rsParity {j : Nat} (h1 : 1 ≤ j) (h3 : j ≤ 3) (m : List Byte) :
    rsSyndrome 0x11D (m ++ [(rsParity 0x11D params.rsGen m).q2, (rsParity 0x11D params.rsGen m).q1,
      (rsParity 0x11D params.rsGen m).q0]) j = 0 := by
  have hvalue := value_rsParity (generatorRoot_gfAlpha_pow h1 h3) m
  rw [← gf_eq_zero_iff, rsSyndrome, List.foldl_append, ← rsSyndrome]
  simp only [List.foldl_cons, List.foldl_nil, gf_xor, gf_gfMul, gf_romExp]
  rw [← gf_add_self ((rsParity 0x11D params.rsGen m).value (gfAlpha ^ j))]
  nth_rewrite 1 [hvalue]
  rw [RsCells.value]
  ring

theorem toList_rsEncode (w : Vector Byte 12) : (rsEncode 0x11D params.rsGen w).toList = w.toList.take 9 ++
    [(rsParity 0x11D params.rsGen (w.toList.take 9)).q2, (rsParity 0x11D params.rsGen (w.toList.take 9)).q1,
      (rsParity 0x11D params.rsGen (w.toList.take 9)).q0] := by
  rw [rsEncode]
  refine List.ext_getElem (by simp) fun i hi _ => ?_
  rw [Vector.length_toList] at hi
  simp only [Vector.getElem_toList, Vector.getElem_set, List.getElem_append, List.length_take, Vector.length_toList,
    List.getElem_take]
  by_cases h9 : i < 9
  · simp [h9, show 9 ≠ i by omega, show 10 ≠ i by omega, show 11 ≠ i by omega]
  · obtain rfl | rfl | rfl : i = 9 ∨ i = 10 ∨ i = 11 := by omega
    · rfl
    · rfl
    · rfl

/-- What `RS.ENC` leaves is a code word (R304). -/
theorem rsCodeWord_rsEncode (w : Vector Byte 12) : RsCodeWord (rsEncode 0x11D params.rsGen w) := by
  rw [rsCodeWord_iff, toList_rsEncode]
  exact ⟨rsSyndrome_append_rsParity (by decide) (by decide) _, rsSyndrome_append_rsParity (by decide) (by decide) _,
    rsSyndrome_append_rsParity (by decide) (by decide) _⟩

theorem getElem_rsEncode (w : Vector Byte 12) {j : Fin 12} (hj : j.val < 9) :
    (rsEncode 0x11D params.rsGen w)[j] = w[j] := by
  rw [Fin.getElem_fin, rsEncode, Vector.getElem_set_ne _ _ (by omega), Vector.getElem_set_ne _ _ (by omega),
    Vector.getElem_set_ne _ _ (by omega)]
  rfl

/-! ### The decoder (R306) -/

section Decode
variable {w : Vector Byte 12}

theorem rsDecode_of_rsCodeWord (h : RsCodeWord w) : rsDecode 0x11D w = ⟨.clean, 0, 0, w⟩ := if_pos (rsCodeWord_iff.mp h)

/-- The correction at the degree of byte `p`. -/
theorem rsCorrect_eq (w : Vector Byte 12) (p : Fin 12) (e : Byte) :
    rsCorrect w (11 - p.val) e = ⟨.corrected, p.val, e, changeByte w p e⟩ := by
  have hp : 11 - (11 - p.val) = p.val := by omega
  simp only [rsCorrect, dif_pos (show 11 - p.val ≤ 11 by omega), hp]
  rfl

/-- What the decoder tests and computes on the syndromes of an error of magnitude `e` in byte `p` (R306). -/
theorem decoder_values_of_error {s₁ s₂ s₃ e : Byte} {p : Fin 12} (he : e ≠ 0) (h₁ : gf s₁ = gf e * gfLocator p ^ 1)
    (h₂ : gf s₂ = gf e * gfLocator p ^ 2) (h₃ : gf s₃ = gf e * gfLocator p ^ 3) :
    (s₁ ≠ 0 ∧ s₂ ≠ 0 ∧ s₃ ≠ 0 ∧ gfMul 0x11D s₂ s₂ = gfMul 0x11D s₁ s₃) ∧
      romLog 0x11D (gfDiv 0x11D s₂ s₁) = 11 - p.val ∧ gfDiv 0x11D (gfMul 0x11D s₁ s₁) s₂ = e := by
  have hne {s : Byte} {j : Nat} (hs : gf s = gf e * gfLocator p ^ j) : s ≠ 0 := by
    rw [Ne, ← gf_eq_zero_iff, hs]
    exact gf_ne_zero_of_isUnit ((isUnit_gf he).mul ((isUnit_gfLocator p).pow j))
  have hlocator : gfDiv 0x11D s₂ s₁ = gfPow 0x11D (11 - p.val) := by
    refine gfDiv_eq_of_mul_eq (hne h₁) ?_
    rw [gf_gfPow_locator, h₁, h₂]
    ring
  refine ⟨⟨hne h₁, hne h₂, hne h₃, gf_injective ?square⟩, ?degree, gfDiv_eq_of_mul_eq (hne h₂) ?magnitude⟩
  case square =>
    rw [gf_gfMul, gf_gfMul, h₁, h₂, h₃]
    ring
  case degree => rw [hlocator, romLog_gfPow (by omega)]
  case magnitude =>
    rw [gf_gfMul, h₁, h₂]
    ring

/-- Where changing one byte gives a code word, the decoder finds that change. -/
theorem rsDecode_of_error {p : Fin 12} {e : Byte} (he : e ≠ 0) (h : RsCodeWord (changeByte w p e)) :
    rsDecode 0x11D w = ⟨.corrected, p.val, e, changeByte w p e⟩ := by
  rw [rsCodeWord_changeByte_iff, ← gf_rsSyndrome, ← gf_rsSyndrome, ← gf_rsSyndrome] at h
  obtain ⟨h₁, h₂, h₃⟩ := h
  obtain ⟨htest, hlog, hmagnitude⟩ := decoder_values_of_error he h₁ h₂ h₃
  rw [rsDecode, if_neg fun hzero => htest.1 hzero.1, if_pos htest, hlog, hmagnitude, rsCorrect_eq]

/-- Syndromes with `S_2^2 = S_1 S_3` are those of the error with locator `S_2 / S_1` and magnitude `S_1^2 / S_2` (R306). -/
theorem syndromes_of_single_error {R : Type*} [CommRing R] {s₁ s₂ s₃ x e : R} (hunit : IsUnit s₁) (hx : x * s₁ = s₂)
    (he : e * s₂ = s₁ * s₁) (hsquare : s₂ * s₂ = s₁ * s₃) : s₁ = e * x ^ 1 ∧ s₂ = e * x ^ 2 ∧ s₃ = e * x ^ 3 := by
  have h₁ : s₁ = e * x := by
    rw [← hunit.mul_left_inj, ← he, ← hx]
    ring
  have h₃ : s₃ = x ^ 2 * s₁ := by
    rw [← hunit.mul_right_inj, ← hsquare, ← hx]
    ring
  refine ⟨by rw [pow_one, ← h₁], ?_, ?_⟩
  · rw [← hx, h₁]
    ring
  · rw [h₃, h₁]
    ring

/-- The decoder's test, passed with a locator of degree at most 11: the syndromes are those of an error in one byte (R306). -/
theorem exists_error_of_syndromes {s₁ s₂ s₃ : Byte} (h₁ : s₁ ≠ 0) (h₂ : s₂ ≠ 0)
    (hsquare : gfMul 0x11D s₂ s₂ = gfMul 0x11D s₁ s₃) (hlog : romLog 0x11D (gfDiv 0x11D s₂ s₁) ≤ 11) :
    ∃ (p : Fin 12) (e : Byte),
      gf s₁ = gf e * gfLocator p ^ 1 ∧ gf s₂ = gf e * gfLocator p ^ 2 ∧ gf s₃ = gf e * gfLocator p ^ 3 := by
  have hx := gf_gfDiv_mul s₂ h₁
  have he := gf_gfDiv_mul (gfMul 0x11D s₁ s₁) h₂
  have hsquare := congrArg gf hsquare
  rw [gf_gfMul] at he
  rw [gf_gfMul, gf_gfMul] at hsquare
  have hx0 : gfDiv 0x11D s₂ s₁ ≠ 0 := fun h0 => h₂ (gf_eq_zero_iff.mp (by rw [← hx, h0, gf_zero, zero_mul]))
  obtain ⟨k, hk, hpow⟩ := exists_gfPow_eq hx0
  rw [← hpow, romLog_gfPow hk] at hlog
  rw [← hpow, gf_gfPow] at hx
  refine ⟨⟨11 - k, Nat.lt_succ_of_le (Nat.sub_le 11 k)⟩, gfDiv 0x11D (gfMul 0x11D s₁ s₁) s₂, ?_⟩
  rw [gfLocator, Nat.sub_sub_self hlog]
  exact syndromes_of_single_error (isUnit_gf h₁) hx he hsquare

/-- On a word that is no code word the decoder gives up, or there is a byte whose change gives a code word. -/
theorem rsDecode_of_not_rsCodeWord (h : ¬ RsCodeWord w) : rsDecode 0x11D w = ⟨.uncorrectable, 0, 0, w⟩ ∨
    ∃ (p : Fin 12) (e : Byte), RsCodeWord (changeByte w p e) := by
  rw [rsDecode, if_neg (mt rsCodeWord_iff.mpr h)]
  split
  case isFalse => exact .inl rfl
  case isTrue hcond =>
    obtain ⟨hne1, hne2, -, hsquare⟩ := hcond
    rw [rsCorrect]
    split
    case isFalse => exact .inl rfl
    case isTrue hlog =>
      obtain ⟨p, e, herror⟩ := exists_error_of_syndromes hne1 hne2 hsquare hlog
      rw [gf_rsSyndrome, gf_rsSyndrome, gf_rsSyndrome] at herror
      exact .inr ⟨p, e, rsCodeWord_changeByte_iff.mpr herror⟩

/-- A change that makes a word a code word is a change. -/
theorem ne_zero_of_rsCodeWord_changeByte {p : Fin 12} {e : Byte} (hw : ¬ RsCodeWord w)
    (h : RsCodeWord (changeByte w p e)) : e ≠ 0 := by
  rintro rfl
  rw [rsCodeWord_changeByte_iff] at h
  simp only [gf_zero, zero_mul] at h
  exact hw h

end Decode

/-! ### The commands on the word -/

theorem rspDec_eq (cat : Category) {pos : Nat} (hpos : pos < 16) (e : Byte) :
    rspDec cat pos e = BitVec.ofNat 32 ((categoryCode cat).toNat * 2 ^ 30 + pos * 2 ^ 24 + e.toNat) := by
  apply BitVec.eq_of_toNat_eq
  have hcat := (categoryCode cat).isLt
  have he := e.isLt
  simp only [rspDec, toNat_append_eq_add, BitVec.toNat_ofNat, Nat.mod_eq_of_lt hpos]
  omega

/-- The state with another word in `RS`. -/
abbrev State.setRs (s : State) (w : Vector Byte 12) : State := { s with block := { s.block with rs := w } }

section WordCommands
variable (s : State)

theorem exec_rsEnc : exec .rsEnc s = doneNext s { s.block with rs := rsEncode 0x11D params.rsGen s.block.rs } := rfl

/-- The answer of `RS.SYN` as a number. -/
theorem exec_rsSyn : exec .rsSyn s = answerNext s (BitVec.ofNat 32 ((rsSyndrome 0x11D s.block.rs.toList 1).toNat * 2 ^ 16 +
    (rsSyndrome 0x11D s.block.rs.toList 2).toNat * 2 ^ 8 + (rsSyndrome 0x11D s.block.rs.toList 3).toNat)) := by
  have h : exec .rsSyn s = s.reply s.block (rspVal (rsSyndrome 0x11D s.block.rs.toList 1 ++
    rsSyndrome 0x11D s.block.rs.toList 2 ++ rsSyndrome 0x11D s.block.rs.toList 3)) := rfl
  rw [h, reply_rspVal, toNat_append_eq_add, toNat_append_eq_add, Nat.add_mul, Nat.mul_assoc]
  rfl

theorem answerNext_injective : Function.Injective (answerNext s) := by
  intro v v' h
  simpa [answerNext] using h

variable {s}

/-- `RS.SYN` answers 0 on the code words alone. -/
theorem exec_rsSyn_eq_zero_iff : exec .rsSyn s = answerNext s 0 ↔ RsCodeWord s.block.rs := by
  rw [rsCodeWord_iff, exec_rsSyn, (answerNext_injective s).eq_iff]
  bv_omega

/-- `RS.DEC` answers and records what the decoder returns (R314). -/
theorem exec_rsDec {cat : Category} {pos : Nat} {e : Byte} {w : Vector Byte 12}
    (h : rsDecode 0x11D s.block.rs = ⟨cat, pos, e, w⟩) (hpos : pos < 16) :
    exec .rsDec s = corNext (s.setRs w) (categoryCode cat) pos (correctionCount cat)
      ((categoryCode cat).toNat * 2 ^ 30 + pos * 2 ^ 24 + e.toNat) := by
  have hexec : exec .rsDec s = s.reply
    { s.block with
      rs := (rsDecode 0x11D s.block.rs).word
      status := recordResult s.block.status (rsDecode 0x11D s.block.rs).cat (rsDecode 0x11D s.block.rs).pos
        (correctionCount (rsDecode 0x11D s.block.rs).cat) }
    (rspDec (rsDecode 0x11D s.block.rs).cat (rsDecode 0x11D s.block.rs).pos (rsDecode 0x11D s.block.rs).magnitude) := rfl
  rw [hexec, h, rspDec_eq cat hpos]
  rfl

theorem exec_rsDec_clean (h : RsCodeWord s.block.rs) : exec .rsDec s = corNext s 0 0 0 0 :=
  exec_rsDec (rsDecode_of_rsCodeWord h) (by decide)

theorem exec_rsDec_uncorrectable (h : rsDecode 0x11D s.block.rs = ⟨.uncorrectable, 0, 0, s.block.rs⟩) :
    exec .rsDec s = corNext s 2 0 0 0x80000000 := exec_rsDec h (by decide)

theorem exec_rsDec_corrected {p : Fin 12} {e : Byte} (he : e ≠ 0) (h : RsCodeWord (changeByte s.block.rs p e)) :
    exec .rsDec s = corNext (s.setRs (changeByte s.block.rs p e)) 1 p.val 1 (2 ^ 30 + p.val * 2 ^ 24 + e.toNat) :=
  exec_rsDec (rsDecode_of_error he h) (by omega)

end WordCommands

/-! ### The obligations on the code -/

/-- Settles O47: each syndrome is the sum of its closed form. -/
theorem syndromesEvaluateTheWord : Obligations.SyndromesEvaluateTheWord := by
  intro s value
  rw [exec_rsSyn, rsSyndrome_eq_foldl_xor, rsSyndrome_eq_foldl_xor, rsSyndrome_eq_foldl_xor]

/-- Settles O48. -/
theorem rsEncodingYieldsACodeWord : Obligations.RsEncodingYieldsACodeWord := by
  intro s
  refine ⟨_, exec_rsEnc s, fun j hj => getElem_rsEncode _ hj, fun t ht => exec_rsSyn_eq_zero_iff.mpr ?_⟩
  rw [ht]
  exact rsCodeWord_rsEncode _

/-- The generator polynomial itself, a code word with four bytes that are not 0 (R300). -/
def rsGeneratorWord : Vector Byte 12 := #v[0, 0, 0, 0, 0, 0, 0, 0, 0x01, 0x0E, 0x38, 0x40]

theorem rsCodeWord_rsGeneratorWord : RsCodeWord rsGeneratorWord := rsCodeWord_iff.mpr (by decide +kernel)

theorem rsCodeWord_reset : RsCodeWord State.reset.block.rs := rsCodeWord_iff.mpr (by decide +kernel)

/-- Settles O49: code words at distance three or less are equal, and the generator polynomial lies at distance four from 0. -/
theorem rsMinimumDistanceIsFour : Obligations.RsMinimumDistanceIsFour := by
  refine ⟨fun s t hs ht hne => ?_, State.reset, State.reset.setRs rsGeneratorWord,
    exec_rsSyn_eq_zero_iff.mpr rsCodeWord_reset, exec_rsSyn_eq_zero_iff.mpr rsCodeWord_rsGeneratorWord, by decide +kernel⟩
  rw [exec_rsSyn_eq_zero_iff] at hs ht
  rw [countP_eq_card_diffIndices]
  by_contra hlt
  exact hne (hs.eq_of_card_le ht (by omega))

/-- Settles O50: changing the byte back gives a code word, so the decoder finds that change. -/
theorem rsSingleErrorsAreCorrected : Obligations.RsSingleErrorsAreCorrected := by
  intro s p e hs he
  rw [exec_rsSyn_eq_zero_iff] at hs
  have hback : RsCodeWord (changeByte (changeByte s.block.rs p e) p e) := by rwa [changeByte_changeByte]
  have hexec := exec_rsDec_corrected (s := s.setRs (changeByte s.block.rs p e)) he hback
  rw [changeByte_changeByte] at hexec
  exact hexec

/-- No change of one byte makes a code word of a word at distance two from a code word: it would lie at distance three or less
from it, so be it, and then the distance would be one. -/
theorem not_rsCodeWord_changeByte {v w : Vector Byte 12} (hv : RsCodeWord v) (hdist : (diffIndices w v).card = 2) (p : Fin 12)
    (e : Byte) : ¬ RsCodeWord (changeByte w p e) := by
  intro hw
  have hnear := card_diffIndices_changeByte_le w v p e
  have hv' : changeByte w p e = v := hw.eq_of_card_le hv (by omega)
  have hone := card_diffIndices_changeByte_le v v p e
  rw [← hv', changeByte_changeByte, hv', hdist, diffIndices_self] at hone
  exact absurd hone (by decide)

/-- Settles O51: by the minimum distance the word is no code word, and no change of one byte makes it one. -/
theorem rsDoubleErrorsAreUncorrectable : Obligations.RsDoubleErrorsAreUncorrectable := by
  intro s t hs hcount
  rw [exec_rsSyn_eq_zero_iff] at hs
  rw [countP_eq_card_diffIndices] at hcount
  have ht : ¬ RsCodeWord t.block.rs := by
    intro ht
    have heq := ht.eq_of_card_le hs (by omega)
    rw [heq, diffIndices_self] at hcount
    exact absurd hcount (by decide)
  obtain hfail | ⟨p, e, herror⟩ := rsDecode_of_not_rsCodeWord ht
  · exact exec_rsDec_uncorrectable hfail
  · exact absurd herror (not_rsCodeWord_changeByte hs hcount p e)

/-- Settles O52: by whether the word is a code word, and else by what the decoder does. -/
theorem rsDecodeOutcomes : Obligations.RsDecodeOutcomes := by
  intro s
  rw [Ne, exec_rsSyn_eq_zero_iff]
  refine ⟨exec_rsDec_clean, fun hs => ?_⟩
  obtain hfail | ⟨p, e, herror⟩ := rsDecode_of_not_rsCodeWord hs
  · exact .inl (exec_rsDec_uncorrectable hfail)
  · have he := ne_zero_of_rsCodeWord_changeByte hs herror
    have hexec := exec_rsDec_corrected he herror
    refine .inr ⟨p, e, he, hexec, fun t ht => exec_rsSyn_eq_zero_iff.mpr ?_⟩
    rw [hexec] at ht
    cases ht
    exact herror

end Sys2Proof.Machine

/-! The BPTC unit (`45_bptc.md` R340 to R355). Deinterleave and interleave move bits by inverse permutations. What the
encoder builds is a `ProductWord`, whose columns and data rows pass their checks. The repair leaves such a word as it is, and
mends one with a single flipped bit of the matrix in the column pass, after which the row pass sees nothing
(`ProductWord.repairLoop_flipBit`). -/

namespace Sys2Proof.Machine

/-! ### The permutation (R340, R341, R343, R344) -/

theorem romDm_lt (a : Nat) : romDm params a < 196 := Nat.mod_lt _ (by decide)

theorem romDmInv_lt (j : Nat) : romDmInv params j < 196 := Nat.mod_lt _ (by decide)

theorem romDmInv_romDm {a : Nat} (ha : a < 196) : romDmInv params (romDm params a) = a := by
  rw [romDmInv_eq, romDm_eq]; omega

theorem romDm_romDmInv {j : Nat} (hj : j < 196) : romDm params (romDmInv params j) = j := by
  rw [romDmInv_eq, romDm_eq]; omega

/-- No two indices have the same entry (R341). -/
theorem romDm_injOn {a b : Nat} (ha : a < 196) (hb : b < 196) (h : romDm params a = romDm params b) : a = b := by
  rw [← romDmInv_romDm ha, h, romDmInv_romDm hb]

/-- `IN[0]` and no other transmitted bit goes to `MX[0]` (R342). -/
theorem romDmInv_eq_zero_iff {e : Nat} (he : e < 196) : romDmInv params e = 0 ↔ e = 0 := by
  rw [romDmInv_eq]; omega

theorem bitAt_deinterleave (buf : BitVec 196) {a : Nat} (ha : a < 196) :
    bitAt (deinterleave params buf) a = bitAt buf (romDm params a) := bitAt_ofBits_lt _ ha

theorem bitAt_interleave (mx : BitVec 196) {j : Nat} (hj : j < 196) :
    bitAt (interleave params mx) j = bitAt mx (romDmInv params j) := bitAt_ofBits_lt _ hj

theorem bitAt_interleave_romDm (mx : BitVec 196) {a : Nat} (ha : a < 196) :
    bitAt (interleave params mx) (romDm params a) = bitAt mx a := by
  rw [bitAt_interleave mx (romDm_lt a), romDmInv_romDm ha]

@[simp] theorem deinterleave_interleave (mx : BitVec 196) : deinterleave params (interleave params mx) = mx :=
  bitAt_ext fun _ ha => by rw [bitAt_deinterleave _ ha, bitAt_interleave_romDm mx ha]

@[simp] theorem interleave_deinterleave (buf : BitVec 196) : interleave params (deinterleave params buf) = buf :=
  bitAt_ext fun j hj => by rw [bitAt_interleave _ hj, bitAt_deinterleave buf (romDmInv_lt j), romDm_romDmInv hj]

/-- A flipped transmitted bit is one flipped bit of `MX`, at its place under the permutation. -/
theorem deinterleave_flipBit (buf : BitVec 196) {e : Nat} (he : e < 196) :
    deinterleave params (flipBit buf e) = flipBit (deinterleave params buf) (romDmInv params e) := by
  apply bitAt_ext
  intro a ha
  have hsame : romDm params a = e ↔ a = romDmInv params e :=
    ⟨fun h => h ▸ (romDmInv_romDm ha).symm, fun h => h ▸ romDm_romDmInv he⟩
  simp only [bitAt_deinterleave _ ha, bitAt_flipBit, hsame, he, romDmInv_lt]

/-! ### The places of the data bits (R347) -/

theorem bitAt_extract (mx : BitVec 196) {k : Nat} (hk : k < 96) : bitAt (extract mx) k = bitAt mx (datIndex k) :=
  bitAt_ofBits_lt _ hk

/-- `DAT[0..7]` come from `MX[4..11]`. -/
theorem datIndex_of_lt {k : Nat} (hk : k < 8) : datIndex k = 4 + k := by
  rw [datIndex, if_pos hk, mxIndex]; omega

/-- `DAT[8 + 11(r-1) + c]` comes from `M(r, c)`. -/
theorem datIndex_row {r c : Nat} (hr : 1 ≤ r) (hc : c ≤ 10) : datIndex (8 + 11 * (r - 1) + c) = mxIndex r c := by
  rw [datIndex, if_neg (by omega)]
  congr 1 <;> omega

/-- No data bit comes from `MX[0]` (R342). -/
theorem datIndex_pos (k : Nat) : 0 < datIndex k := by
  unfold datIndex mxIndex
  split <;> omega

/-- Extraction does not see `MX[0]` (R342). -/
theorem extract_flipBit_zero (mx : BitVec 196) : extract (flipBit mx 0) = extract mx :=
  bitAt_ext fun k hk => by
    rw [bitAt_extract _ hk, bitAt_extract _ hk, bitAt_flipBit, if_neg fun h => (datIndex_pos k).ne' h.1]

/-! ### Columns and rows, bit by bit (R37, R345) -/

theorem bitAt_column (mx : BitVec 196) {r : Nat} (c : Nat) (hr : r < 13) : bitAt (column mx c) r = mxAt mx r c :=
  bitAt_ofBits_lt _ hr

theorem bitAt_row (mx : BitVec 196) (r : Nat) {c : Nat} (hc : c < 15) : bitAt (row mx r) c = mxAt mx r c :=
  bitAt_ofBits_lt _ hc

theorem mxAt_ofMatrix (f : Nat → Nat → Bool) {r c : Nat} (hr : r < 13) (hc : c < 15) : mxAt (ofMatrix f) r c = f r c :=
  bitAt_ofMatrix f (Nat.le_of_lt_succ hr) (Nat.le_of_lt_succ hc)

theorem bitAt_ofMatrix_zero (f : Nat → Nat → Bool) : bitAt (ofMatrix f) 0 = false := bitAt_ofBits_lt _ (by decide)

/-- Every index of `MX` but 0 is that of a matrix element. -/
theorem exists_mxIndex_eq {a : Nat} (ha : a < 196) (h0 : a ≠ 0) : ∃ r < 13, ∃ c < 15, mxIndex r c = a :=
  ⟨(a - 1) / 15, by omega, (a - 1) % 15, by omega, by unfold mxIndex; omega⟩

/-- `MX` is `MX[0]` and the 15 columns. -/
theorem eq_of_column_eq {u v : BitVec 196} (h0 : bitAt u 0 = bitAt v 0) (hcols : ∀ c < 15, column u c = column v c) :
    u = v := by
  apply bitAt_ext
  intro a ha
  by_cases hzero : a = 0
  · rw [hzero, h0]
  · obtain ⟨r, hr, c, hc, rfl⟩ := exists_mxIndex_eq ha hzero
    have hbit := congrArg (bitAt · r) (hcols c hc)
    rwa [bitAt_column u c hr, bitAt_column v c hr] at hbit

/-! ### The encoder (R348) -/

/-- A word passes the check if its parity bits are the parity of its data bits (R220). -/
theorem hamSyn_eq_zero_of_bits {k m : Nat} {G : Vector (BitVec m) k} {w : BitVec (k + m)} {d : BitVec k}
    (hdata : ∀ i < k, bitAt w i = bitAt d i) (hparity : ∀ j < m, bitAt w (k + j) = bitAt (hamPar G d) j) :
    hamSyn G w = 0 := by
  have hd : codeData k m w = d := bitAt_ext fun i hi => by rw [bitAt_codeData w hi, hdata i hi]
  have hp : codeParity k m w = hamPar G d := bitAt_ext fun j hj => by rw [bitAt_codeParity w hj, hparity j hj]
  rw [hamSyn, hd, hp]
  exact BitVec.xor_self

theorem mxAt_placeData (dat : BitVec 96) {r c : Nat} (hr : r < 13) (hc : c < 15) :
    mxAt (placeData dat) r c = dataAt dat r c := mxAt_ofMatrix _ hr hc

/-- The row pass of the encoder leaves the data columns. -/
theorem mxAt_encodeRows_of_lt (mx : BitVec 196) {r c : Nat} (hr : r < 13) (hc : c < 11) :
    mxAt (encodeRows params mx) r c = mxAt mx r c := by
  rw [encodeRows, mxAt_ofMatrix _ hr (by omega), if_neg (by omega)]

/-- The row pass of the encoder writes the row parities of rows 0..8 into columns 11..14. -/
theorem mxAt_encodeRows_add (mx : BitVec 196) {r j : Nat} (hr : r < 9) (hj : j < 4) :
    mxAt (encodeRows params mx) r (11 + j) = bitAt (hamPar params.gH15 (codeData 11 4 (row mx r))) j := by
  rw [encodeRows, mxAt_ofMatrix _ (by omega) (by omega), if_pos (by omega), Nat.add_sub_cancel_left]

/-- The column pass of the encoder leaves rows 0..8. -/
theorem mxAt_encodeColumns_of_lt (mx : BitVec 196) {r c : Nat} (hr : r < 9) (hc : c < 15) :
    mxAt (encodeColumns params mx) r c = mxAt mx r c := by
  rw [encodeColumns, mxAt_ofMatrix _ (by omega) hc, if_neg (by omega)]

/-- The column pass of the encoder writes the column parities into rows 9..12. -/
theorem mxAt_encodeColumns_add (mx : BitVec 196) {j c : Nat} (hj : j < 4) (hc : c < 15) :
    mxAt (encodeColumns params mx) (9 + j) c = bitAt (hamPar params.gH13 (codeData 9 4 (column mx c))) j := by
  rw [encodeColumns, mxAt_ofMatrix _ (by omega) hc, if_pos (by omega), Nat.add_sub_cancel_left]

theorem hamSyn_row_encodeRows (mx : BitVec 196) {r : Nat} (hr : r < 9) :
    hamSyn params.gH15 (row (encodeRows params mx) r) = 0 :=
  hamSyn_eq_zero_of_bits (d := codeData 11 4 (row mx r))
    (fun i hi => by
      rw [bitAt_row _ r (by omega), mxAt_encodeRows_of_lt mx (by omega) hi, bitAt_codeData _ hi, bitAt_row _ r (by omega)])
    (fun j hj => by rw [bitAt_row _ r (by omega), mxAt_encodeRows_add mx hr hj])

theorem hamSyn_column_encodeColumns (mx : BitVec 196) {c : Nat} (hc : c < 15) :
    hamSyn params.gH13 (column (encodeColumns params mx) c) = 0 :=
  hamSyn_eq_zero_of_bits (d := codeData 9 4 (column mx c))
    (fun i hi => by
      rw [bitAt_column _ c (by omega), mxAt_encodeColumns_of_lt mx hi hc, bitAt_codeData _ hi, bitAt_column _ c (by omega)])
    (fun j hj => by rw [bitAt_column _ c (by omega), mxAt_encodeColumns_add mx hj hc])

theorem row_encodeColumns (mx : BitVec 196) {r : Nat} (hr : r < 9) : row (encodeColumns params mx) r = row mx r :=
  bitAt_ext fun c hc => by rw [bitAt_row _ r hc, bitAt_row _ r hc, mxAt_encodeColumns_of_lt mx hr hc]

/-- A matrix whose 15 columns and 9 data rows pass their checks, as `BPTC.REPAIR` makes them (R345). -/
structure ProductWord (mx : BitVec 196) : Prop where
  columns : ∀ c < 15, hamSyn params.gH13 (column mx c) = 0
  rows : ∀ r < 9, hamSyn params.gH15 (row mx r) = 0

/-- R349 (b). -/
theorem productWord_bptcEncode (dat : BitVec 96) : ProductWord (bptcEncode params dat) where
  columns _ hc := hamSyn_column_encodeColumns _ hc
  rows r hr := by rw [bptcEncode, row_encodeColumns _ hr, hamSyn_row_encodeRows _ hr]

/-- Bit `i` of a XOR of strings is the XOR of their bits `i`. -/
theorem bitAt_foldl_xor {α : Type*} {n : Nat} (f : α → BitVec n) (l : List α) (q : BitVec n) (i : Nat) :
    bitAt (l.foldl (fun q a => q ^^^ f a) q) i = l.foldl (fun q a => q ^^ bitAt (f a) i) (bitAt q i) := by
  induction l generalizing q with
  | nil => rfl
  | cons a l ih => rw [List.foldl_cons, ih, bitAt_xor, List.foldl_cons]

/-- A XOR of words that pass the check passes it (R220). -/
theorem hamSyn_foldl_xor {α : Type*} {k m : Nat} {G : Vector (BitVec m) k} {f : α → BitVec (k + m)} {l : List α}
    (h : ∀ a ∈ l, hamSyn G (f a) = 0#m) {q : BitVec (k + m)} (hq : hamSyn G q = 0#m) :
    hamSyn G (l.foldl (fun q a => q ^^^ f a) q) = 0#m := by
  induction l generalizing q with
  | nil => exact hq
  | cons a l ih =>
    refine ih (fun b hb => h b (List.mem_cons_of_mem a hb)) ?_
    rw [hamSyn_xor, hq, h a List.mem_cons_self, BitVec.xor_self]

theorem hamSyn_zero {k m : Nat} (G : Vector (BitVec m) k) : hamSyn G 0#(k + m) = 0#m := by
  rw [← BitVec.xor_self (x := 0#(k + m)), hamSyn_xor, BitVec.xor_self]

/-- The parity bits of a word that passes the check (R220). -/
theorem bitAt_parity_of_syn_eq_zero {k m : Nat} {G : Vector (BitVec m) k} {w : BitVec (k + m)} (h : hamSyn G w = 0#m)
    {j : Nat} (hj : j < m) : bitAt w (k + j) = (parityTaps G j).foldl (fun q (i : Fin k) => q ^^ bitAt w i) false := by
  have hparity : codeParity k m w = hamPar G (codeData k m w) := (BitVec.xor_eq_zero_iff.mp h).symm
  rw [← bitAt_codeParity w hj, hparity, bitAt_hamPar]
  simp only [bitAt_codeData, Fin.is_lt]

namespace ProductWord
variable {mx : BitVec 196} (h : ProductWord mx)
include h

/-- Each parity row is the XOR of the data rows that its column equation lists (R233). -/
theorem row_parity {j : Nat} (hj : j < 4) :
    row mx (9 + j) = (parityTaps params.gH13 j).foldl (fun q (i : Fin 9) => q ^^^ row mx i) 0#(11 + 4) := by
  apply bitAt_ext
  intro c hc
  have hcolumn := bitAt_parity_of_syn_eq_zero (h.columns c hc) hj
  have hdata : ∀ i : Fin 9, bitAt (row mx i) c = bitAt (column mx c) i := fun i => by
    rw [bitAt_row mx i hc, bitAt_column mx c (by omega)]
  rw [bitAt_foldl_xor, bitAt_zero, bitAt_row mx _ hc, ← bitAt_column mx c (by omega), hcolumn]
  simp only [hdata]

/-- The parity rows pass the row check as well, since both codes are linear (R348). -/
theorem hamSyn_row {r : Nat} (hr : r < 13) : hamSyn params.gH15 (row mx r) = 0 := by
  by_cases hdata : r < 9
  · exact h.rows r hdata
  · obtain ⟨j, rfl⟩ := Nat.exists_eq_add_of_le (Nat.not_lt.mp hdata)
    have htaps : ∀ i ∈ parityTaps params.gH13 j, hamSyn params.gH15 (row mx i.val) = 0#4 := fun i _ => h.rows i i.isLt
    rw [h.row_parity (by omega)]
    exact hamSyn_foldl_xor htaps (hamSyn_zero params.gH15)

end ProductWord

section Encode
variable (dat : BitVec 96)

/-- The encoder leaves the data and the reserved bits of rows 0..8 where they were placed (R348). -/
theorem mxAt_bptcEncode {r c : Nat} (hr : r < 9) (hc : c < 11) : mxAt (bptcEncode params dat) r c = dataAt dat r c := by
  rw [bptcEncode, mxAt_encodeColumns_of_lt _ hr (by omega), mxAt_encodeRows_of_lt _ (by omega) hc,
    mxAt_placeData dat (by omega) (by omega)]

/-- The reserved places of row 0 hold no data (R342). -/
theorem dataAt_zero_of_lt {c : Nat} (hc : c < 3) : dataAt dat 0 c = false := by
  have hplace : ¬ (3 ≤ c ∧ c ≤ 10) := by omega
  simp [dataAt, hplace]

theorem dataAt_zero_add {k : Nat} (hk : k < 8) : dataAt dat 0 (k + 3) = bitAt dat k := by
  have hplace : k + 3 ≤ 10 := by omega
  simp [dataAt, hplace]

theorem dataAt_row {r c : Nat} (hr1 : 1 ≤ r) (hr8 : r ≤ 8) (hc : c ≤ 10) :
    dataAt dat r c = bitAt dat (8 + 11 * (r - 1) + c) := by
  have hr0 : r ≠ 0 := by omega
  simp [dataAt, hr0, hr8, hc]

/-- The four reserved bits are 0 (R342). -/
theorem bitAt_bptcEncode_reserved {a : Nat} (ha : a < 4) : bitAt (bptcEncode params dat) a = false := by
  by_cases hzero : a = 0
  · rw [hzero, bptcEncode, encodeColumns, bitAt_ofMatrix_zero]
  · have hplace : mxIndex 0 (a - 1) = a := by unfold mxIndex; omega
    have hbit := mxAt_bptcEncode dat (r := 0) (c := a - 1) (by decide) (by omega)
    rwa [mxAt, hplace, dataAt_zero_of_lt dat (by omega)] at hbit

/-- A data bit of rows 1..8, by its place in the matrix. -/
theorem exists_row_place {k : Nat} (hk8 : 8 ≤ k) (hk : k < 96) :
    ∃ r c, 1 ≤ r ∧ r ≤ 8 ∧ c ≤ 10 ∧ 8 + 11 * (r - 1) + c = k :=
  ⟨1 + (k - 8) / 11, (k - 8) % 11, by omega, by omega, by omega, by omega⟩

/-- The data bits stand where extraction takes them (R348). -/
theorem bitAt_bptcEncode_datIndex {k : Nat} (hk : k < 96) : bitAt (bptcEncode params dat) (datIndex k) = bitAt dat k := by
  by_cases hk8 : k < 8
  · rw [datIndex, if_pos hk8, ← dataAt_zero_add dat hk8]
    exact mxAt_bptcEncode dat (by decide) (by omega)
  · obtain ⟨r, c, hr1, hr8, hc, rfl⟩ := exists_row_place (Nat.not_lt.mp hk8) hk
    rw [datIndex_row hr1 hc, ← dataAt_row dat hr1 hr8 hc]
    exact mxAt_bptcEncode dat (by omega) (by omega)

@[simp] theorem extract_bptcEncode : extract (bptcEncode params dat) = dat :=
  bitAt_ext fun _ hk => by rw [bitAt_extract _ hk, bitAt_bptcEncode_datIndex dat hk]

end Encode

/-! ### The repair of a product word, and of one with a flipped bit (R345, R349) -/

section Pass
variable {k m : Nat} {G : Vector (BitVec m) k} {idx : Nat → Nat → Nat} {N n : Nat} {a b : Repair}

theorem lineCor_of_syn_eq_zero {mx : BitVec 196} {c : Nat} (h : hamSyn G (lineWord (k + m) idx mx c) = 0#m) :
    lineCor G idx mx c = ⟨.clean, 0, lineWord (k + m) idx mx c⟩ := hamCor_of_syn_eq_zero h

/-- A pass over lines that all pass their check changes nothing. -/
theorem PassDone.eq_of_passing (h : PassDone G idx N b n a)
    (hpass : ∀ c < n, hamSyn G (lineWord (k + m) idx b.mx c) = 0#m) : a = b := by
  have hclean := fun c hc => lineCor_of_syn_eq_zero (hpass c hc)
  have hno : NoFlip G idx b.mx n := fun c hc => by rw [hclean c hc]; nofun
  obtain ⟨hmx, hpos⟩ := h.kept_of_noFlip hno
  have hcount : (List.range n).countP (fun c => (lineCor G idx b.mx c).cat = .corrected) = 0 := by
    rw [List.countP_eq_zero]
    exact fun c hc => by simpa using hno c (List.mem_range.mp hc)
  have hcnt : a.cnt = b.cnt := by rw [h.cnt_eq, hcount, Nat.add_zero]
  have hfatal : a.fatal = b.fatal := by
    rw [Bool.eq_iff_iff, h.fatal_iff]
    exact or_iff_left fun ⟨c, hc, hbad⟩ => by rw [hclean c hc] at hbad; cases hbad
  calc a = ⟨a.mx, a.cnt, a.pos, a.fatal⟩ := rfl
    _ = b := by rw [hmx, hcnt, hpos, hfatal]

section Flipped
variable (hidx : LinesApart idx N (k + m)) {v : BitVec 196} (hv : ∀ c < N, hamSyn G (lineWord (k + m) idx v c) = 0#m)
  {c p : Nat} (hc : c < N) (hp : p < k + m)
include hidx hv hc hp

/-- The check of the line with the flipped bit. -/
theorem lineCor_flipBit_self (hnodup : (hamRows G).Nodup) (hzero : 0#m ∉ hamRows G) :
    lineCor G idx (flipBit v (idx c p)) c = ⟨.corrected, p, lineWord (k + m) idx v c⟩ := by
  rw [lineCor, lineWord_flipBit_self hidx v hc hp, hamCor_flipBit hnodup hzero (hv c hc) hp]

/-- The checks of the other lines. -/
theorem lineCor_flipBit_of_ne {c' : Nat} (hc' : c' < N) (hne : c' ≠ c) :
    lineCor G idx (flipBit v (idx c p)) c' = ⟨.clean, 0, lineWord (k + m) idx v c'⟩ := by
  rw [lineCor, lineWord_flipBit_of_ne hidx v hc hp hc' hne, hamCor_of_syn_eq_zero (hv c' hc')]

/-- A pass over lines that pass their check but for one flipped bit mends its line, and counts and locates the flip. -/
theorem PassDone.of_flipBit (hnodup : (hamRows G).Nodup) (hzero : 0#m ∉ hamRows G)
    (h : PassDone G idx N ⟨flipBit v (idx c p), 0, 0, false⟩ N a) :
    ∃ u, a = ⟨u, 1, idx c p, false⟩ ∧ ∀ c' < N, lineWord (k + m) idx u c' = lineWord (k + m) idx v c' := by
  have hself := lineCor_flipBit_self hidx hv hc hp hnodup hzero
  have hcor : ∀ c' < N, lineCor G idx (flipBit v (idx c p)) c' =
      if c' = c then ⟨.corrected, p, lineWord (k + m) idx v c'⟩ else ⟨.clean, 0, lineWord (k + m) idx v c'⟩ := by
    intro c' hc'
    split_ifs with heq
    · rw [heq, hself]
    · exact lineCor_flipBit_of_ne hidx hv hc hp hc' heq
  have hcorrected : ∀ c' < N, (lineCor G idx (flipBit v (idx c p)) c').cat = .corrected ↔ c' = c := by
    intro c' hc'
    rw [hcor c' hc']
    split_ifs with heq <;> simp [heq]
  have hlines : ∀ c' < N, lineWord (k + m) idx a.mx c' = lineWord (k + m) idx v c' := by
    intro c' hc'
    rw [h.checked c' hc', hcor c' hc']
    split_ifs <;> rfl
  have hcnt : a.cnt = 1 := by
    have hcount : (List.range N).countP (fun c' => (lineCor G idx (flipBit v (idx c p)) c').cat = .corrected) =
        (List.range N).count c :=
      List.countP_congr fun c' hc' => by simp [hcorrected c' (List.mem_range.mp hc')]
    rw [h.cnt_eq, hcount, List.count_eq_one_of_mem List.nodup_range (List.mem_range.mpr hc)]
  have hpos : a.pos = idx c p := by
    have hlast : LastFlip G idx (flipBit v (idx c p)) N c :=
      ⟨hc, (hcorrected c hc).mpr rfl, fun c' hc' hlt => mt (hcorrected c' hc').mp hlt.ne'⟩
    rw [h.pos_eq_of_lastFlip hlast, hself]
  have hfatal : a.fatal = false := by
    rw [← Bool.not_eq_true, h.fatal_iff]
    rintro (hbad | ⟨c', hc', hbad⟩)
    · cases hbad
    · rw [hcor c' hc'] at hbad
      split_ifs at hbad
  rw [← hcnt, ← hpos, ← hfatal]
  exact ⟨a.mx, rfl, hlines⟩

end Flipped

/-- `MX[0]` is in no line. -/
theorem lineWord_flipBit_zero {n : Nat} (hidx : LinesApart idx N n) (mx : BitVec 196) (c : Nat) :
    lineWord n idx (flipBit mx 0) c = lineWord n idx mx c :=
  bitAt_ext fun p hp => by
    simp only [lineWord, bitAt_ofBits_lt _ hp, bitAt_flipBit, (hidx.pos c p).ne', false_and, if_false]

end Pass

namespace ProductWord
variable {v : BitVec 196} (h : ProductWord v)
include h

/-- The column pass over a product word changes nothing. -/
theorem columnPass_eq : columnPass v = ⟨v, 0, 0, false⟩ := (passDone_columnPass v).eq_of_passing h.columns

/-- The row pass sees nothing where the column pass has left a product word. -/
theorem repairLoop_eq_columnPass {mx : BitVec 196} (hmx : (columnPass mx).mx = v) :
    repairLoop params mx = columnPass mx :=
  (passDone_repairLoop mx).eq_of_passing fun r hr => by rw [hmx]; exact h.rows r hr

/-- R349 (a): a product word is clean. -/
theorem repairLoop_eq_self : repairLoop params v = ⟨v, 0, 0, false⟩ := by
  have hpass := h.columnPass_eq
  rw [h.repairLoop_eq_columnPass (by rw [hpass]), hpass]

/-- R349 (d): a flip of `MX[0]` is not seen. -/
theorem flipBit_zero : ProductWord (flipBit v 0) where
  columns c hc := (congrArg (hamSyn params.gH13) (lineWord_flipBit_zero linesApart_columns v c)).trans (h.columns c hc)
  rows r hr := (congrArg (hamSyn params.gH15) (lineWord_flipBit_zero linesApart_rows v r)).trans (h.rows r hr)

/-- The column pass mends, counts and locates one flipped bit of the matrix. -/
theorem columnPass_flipBit {r c : Nat} (hr : r < 13) (hc : c < 15) :
    columnPass (flipBit v (mxIndex r c)) = ⟨v, 1, mxIndex r c, false⟩ := by
  have hpass := passDone_columnPass (flipBit v (mxIndex r c))
  obtain ⟨u, hu, hlines⟩ :=
    hpass.of_flipBit linesApart_columns h.columns hc hr nodup_hamRows_gH13 zero_not_mem_hamRows_gH13
  have hreserved := hpass.reserved
  rw [hu, bitAt_flipBit, if_neg fun hz => (linesApart_rows.pos r c).ne hz.1] at hreserved
  obtain rfl : u = v := eq_of_column_eq hreserved hlines
  exact hu

/-- R349 (c): the column pass leaves nothing for the row pass to see. -/
theorem repairLoop_flipBit {a : Nat} (ha : a < 196) (h0 : a ≠ 0) :
    repairLoop params (flipBit v a) = ⟨v, 1, a, false⟩ := by
  obtain ⟨r, hr, c, hc, rfl⟩ := exists_mxIndex_eq ha h0
  have hpass := h.columnPass_flipBit hr hc
  rw [h.repairLoop_eq_columnPass (by rw [hpass]), hpass]

end ProductWord

/-! ### The commands and their runs (R350 to R355) -/

section Commands
variable (s : State)

theorem exec_bptcDeint :
    exec .bptcDeint s = doneNext s { s.block with mx := deinterleave params s.block.inBuf } := rfl

theorem exec_bptcInt : exec .bptcInt s = doneNext s { s.block with inBuf := interleave params s.block.mx } := rfl

theorem exec_bptcExtract : exec .bptcExtract s = doneNext s { s.block with dat := extract s.block.mx } := rfl

theorem exec_bptcEnc : exec .bptcEnc s = doneNext s { s.block with mx := bptcEncode params s.block.dat } := rfl

theorem exec_bptcDm {a : Byte} (ha : a.toNat < 196) :
    exec (.bptcDm a) s = answerNext s (BitVec.ofNat 32 (romDm params a.toNat)) := by
  rw [exec, execBptcDm, execBptcDmWith, spaceIndex_of_lt ha]; rfl

/-- The state after an encoding and the interleaving of its result, as it is to be transmitted. -/
def State.sent : State := { s with
  block := { s.block with
    mx := bptcEncode params s.block.dat, inBuf := interleave params (bptcEncode params s.block.dat) }
  out := some { rsp := 0, err := false } }

theorem execAll_enc_int : execAll [.bptcEnc, .bptcInt] s = .next s.sent :=
  (execAll_cons (exec_bptcEnc s) _).trans (execAll_cons (exec_bptcInt _) [])

/-- What a receiver without a repair gets. -/
theorem execAll_deint_extract : ∃ t, execAll [.bptcDeint, .bptcExtract] s = .next t ∧
    t.block.dat = extract (deinterleave params s.block.inBuf) :=
  ⟨_, (execAll_cons (exec_bptcDeint s) _).trans (execAll_cons (exec_bptcExtract _) []), rfl⟩

/-- What a receiver with a repair gets and records. -/
theorem execAll_deint_repair_extract {a : Repair} (ha : repairLoop params (deinterleave params s.block.inBuf) = a) :
    ∃ t, execAll [.bptcDeint, .bptcRepair, .bptcExtract] s = .next t ∧ t.block.dat = extract a.mx ∧
      t.block.status = withResult s.block.status (categoryCode (repairCategory a)) a.pos a.cnt := by
  subst ha
  exact ⟨_, (execAll_cons (exec_bptcDeint s) _).trans
    ((execAll_cons (exec_bptcRepair _) _).trans (execAll_cons (exec_bptcExtract _) [])), rfl, rfl⟩

end Commands

/-! ### The obligations -/

/-- Settles O53. -/
theorem interleaverMovesEveryBit : Obligations.InterleaverMovesEveryBit :=
  ⟨rfl, rfl, fun s => ⟨⟨_, exec_bptcDeint s, fun _ ha => bitAt_deinterleave _ ha⟩,
    ⟨_, exec_bptcInt s, fun _ ha => bitAt_interleave_romDm _ ha⟩⟩⟩

/-- Settles O54: each run copies by one permutation and then by its inverse. -/
theorem interleaveAndDeinterleaveAreInverse : Obligations.InterleaveAndDeinterleaveAreInverse := fun s =>
  ⟨⟨_, (execAll_cons (exec_bptcInt s) _).trans (execAll_cons (exec_bptcDeint _) []),
    deinterleave_interleave s.block.mx⟩,
   ⟨_, (execAll_cons (exec_bptcDeint s) _).trans (execAll_cons (exec_bptcInt _) []),
    interleave_deinterleave s.block.inBuf⟩⟩

/-- Settles O55: equal answers are equal entries, as an entry fits the response, and `romDm_injOn` gives the index back. -/
theorem deinterleaveTableIsABijection : Obligations.DeinterleaveTableIsABijection := by
  intro s a
  refine ⟨toNat_encode _, fun ha => ⟨exec_bptcDm s (Nat.lt_succ_of_le ha), fun b hb hexec => ?_⟩,
    fun ha => outOfRangeOperandIsIllegal _ s (legalDmIndex_eq_false_iff.mpr ha)⟩
  rw [exec_bptcDm s (Nat.lt_succ_of_le ha), exec_bptcDm s (Nat.lt_succ_of_le hb)] at hexec
  have hentry := congrArg BitVec.toNat (answerNext_injective s hexec)
  have hfit : ∀ i, romDm params i < 2 ^ 32 := fun i => (romDm_lt i).trans (by decide)
  rw [BitVec.toNat_ofNat, BitVec.toNat_ofNat, Nat.mod_eq_of_lt (hfit _), Nat.mod_eq_of_lt (hfit _)] at hentry
  exact BitVec.eq_of_toNat_eq (romDm_injOn (Nat.lt_succ_of_le ha) (Nat.lt_succ_of_le hb) hentry.symm)

/-- Settles O56. -/
theorem extractTakesTheDataColumns : Obligations.ExtractTakesTheDataColumns := by
  refine ⟨rfl, fun s => ⟨_, exec_bptcExtract s, fun k hk => ?_, fun r c hr1 hr8 hc => ?_⟩⟩
  · have hbit := bitAt_extract s.block.mx (k := k) (by omega)
    rwa [datIndex_of_lt hk] at hbit
  · have hbit := bitAt_extract s.block.mx (k := 8 + 11 * (r - 1) + c) (by omega)
    rwa [datIndex_row hr1 hc] at hbit

/-- Settles O57: what the encoder builds is a product word, whose parity rows pass by linearity. -/
theorem encodeBuildsAProductCodeWord : Obligations.EncodeBuildsAProductCodeWord := by
  intro s
  have hword := productWord_bptcEncode s.block.dat
  refine ⟨_, exec_bptcEnc s, fun _ ha => bitAt_bptcEncode_reserved _ ha, fun k hk => ?_, fun r c hr1 hr8 hc => ?_,
    hword.columns, fun _ hr => hword.hamSyn_row hr⟩
  · have hbit := bitAt_bptcEncode_datIndex s.block.dat (k := k) (by omega)
    rwa [datIndex_of_lt hk] at hbit
  · have hbit := bitAt_bptcEncode_datIndex s.block.dat (k := 8 + 11 * (r - 1) + c) (by omega)
    rwa [datIndex_row hr1 hc] at hbit

/-- Settles O58: what is received is the product word that was sent, which is clean. -/
theorem encodeThenDecodeRestoresTheData : Obligations.EncodeThenDecodeRestoresTheData := by
  intro s
  have hmx : deinterleave params s.sent.block.inBuf = bptcEncode params s.block.dat := deinterleave_interleave _
  have hclean := (productWord_bptcEncode s.block.dat).repairLoop_eq_self
  rw [← hmx] at hclean
  refine ⟨?plain, ?repaired⟩
  case plain =>
    obtain ⟨t, hrun, hdat⟩ := execAll_deint_extract s.sent
    exact ⟨t, (execAll_append (execAll_enc_int s) _).trans hrun, by rw [hdat, hmx, extract_bptcEncode]⟩
  case repaired =>
    obtain ⟨t, hrun, hdat, hstatus⟩ := execAll_deint_repair_extract s.sent hclean
    exact ⟨t, (execAll_append (execAll_enc_int s) _).trans hrun, by rw [hdat, hmx, extract_bptcEncode], hstatus⟩

/-- Settles O59: the flip is received at its place under the permutation, and the repair finds it there unless it is that
of `MX[0]`. -/
theorem singleTransmissionErrorsAreRepaired : Obligations.SingleTransmissionErrorsAreRepaired := by
  intro s e he
  have hword := productWord_bptcEncode s.block.dat
  have hmx : deinterleave params (s.sent.block.inBuf ^^^ BitVec.twoPow 196 (195 - e)) =
      flipBit (bptcEncode params s.block.dat) (romDmInv params e) := by
    rw [← flipBit_of_lt he, deinterleave_flipBit _ he]
    exact congrArg (flipBit · _) (deinterleave_interleave _)
  obtain ⟨u, hrun, hdat, hstatus⟩ := execAll_deint_repair_extract { s.sent with block := { s.sent.block with
    inBuf := s.sent.block.inBuf ^^^ BitVec.twoPow 196 (195 - e) } } (congrArg (repairLoop params) hmx)
  refine ⟨s.sent, u, execAll_enc_int s, hrun, ?_⟩
  by_cases h0 : e = 0
  · rw [(romDmInv_eq_zero_iff he).mpr h0, hword.flipBit_zero.repairLoop_eq_self] at hdat hstatus
    rw [if_pos h0, hdat, extract_flipBit_zero, extract_bptcEncode]
    exact ⟨rfl, hstatus⟩
  · rw [hword.repairLoop_flipBit (romDmInv_lt e) (mt (romDmInv_eq_zero_iff he).mp h0)] at hdat hstatus
    rw [if_neg h0, hdat, extract_bptcEncode, ← romDmInv_eq]
    exact ⟨rfl, hstatus⟩

end Sys2Proof.Machine

/-! The exception and the pin (`60_exceptions.md` R383, R385, R391). What an illegal word and the pin do is the step lemma of
their case. That the fault record influences no command but `STATUS` is read off the seven shapes of a legal command: of two
runs that start with different fault records, each shape makes the same result fields and the same other elements. -/

namespace Sys2Proof.Machine

/-! ### The fault record apart from the result fields -/

/-- Two `STATUS` values agree in the result fields of R48; they may differ in the fault record of R41. -/
structure Status.SameResult (r r' : Status) : Prop where
  st : r.st = r'.st
  pos : r.pos = r'.pos
  cnt : r.cnt = r'.cnt

@[refl] theorem Status.SameResult.refl (r : Status) : r.SameResult r := ⟨rfl, rfl, rfl⟩

/-- A recorded result does not depend on what was recorded before (R48). -/
theorem Status.sameResult_recordResult (r r' : Status) (cat : Category) (pos cnt : Nat) :
    (recordResult r cat pos cnt).SameResult (recordResult r' cat pos cnt) := ⟨rfl, rfl, rfl⟩

/-- An illegal command keeps the result fields (R383). -/
theorem Status.SameResult.recordIllegal {r r' : Status} (h : r.SameResult r') (c : IllegalCode) :
    (recordIllegal r c).SameResult (recordIllegal r' c) := ⟨h.st, h.pos, h.cnt⟩

theorem sameExcept_set_self (b : Block) (e : Element) (v : e.Val) : sameExcept e (b.set e v) b :=
  fun _ he => sameElement_iff.mpr (Block.get_set_of_ne v he)

/-! ### Two runs that differ in the fault record -/

/-- `STATUS` is read by the command of that name alone (R30). -/
theorem reads_status_of_ne {i : Instr} (h : i ≠ .status) : reads .status i = false := by
  cases i with
  | status => exact absurd rfl h
  | _ => rfl

/-- A legal command leaves the same result fields in two blocks that agree in theirs and in every element but `STATUS`: it
keeps them, or gives them the result of an element it reads, or resets them. -/
theorem Act.sameResult {i : Instr} {f : Block → Block} {r : Block → Word} (h : Act i f r) {a b : Block}
    (hab : sameExcept .status a b) (hres : a.status.SameResult b.status) : (f a).status.SameResult (f b).status := by
  cases h with
  | answer | read => exact hres
  | update _ hf | transfer _ _ hf => rwa [Block.status_set_of_ne _ hf, Block.status_set_of_ne _ hf]
  | record => exact Status.sameResult_recordResult ..
  | correct _ hg =>
    beta_reduce
    rw [hab.get_eq hg]
    exact Status.sameResult_recordResult ..
  | reset => rfl

/-- A command other than `STATUS`, run from a state and from the same state with another fault record, gives the same answer
and leaves two states that differ in the fault record alone (R385). -/
theorem exec_faultRecord_no_influence {i : Instr} (hi : i ≠ .status) (s : State) {v : Status}
    (hv : v.SameResult s.block.status) :
    ∃ t t', exec i s = .next t ∧ exec i { s with block := { s.block with status := v } } = .next t' ∧
      t'.out = t.out ∧ t'.inputs = t.inputs ∧ sameExcept .status t'.block t.block ∧
      t'.block.status.SameResult t.block.status := by
  have hs : sameExcept .status { s.block with status := v } s.block := sameExcept_set_self s.block .status v
  obtain ⟨-, hexec⟩ | ⟨-, f, r, hact, hexec⟩ := behaves i
  case inl =>
    have hblock := hs.set (f := .status) (x := recordIllegal v .operandRange)
      (y := recordIllegal s.block.status .operandRange) fun hne => absurd rfl hne
    exact ⟨_, _, hexec s, hexec _, rfl, rfl, hblock, hv.recordIllegal _⟩
  case inr =>
    obtain ⟨hr, hf⟩ := hact.no_influence (reads_status_of_ne hi) hs
    exact ⟨_, _, hexec s, hexec _, by simp only [hr], rfl, hf, hact.sameResult hs hv⟩

/-! ### The obligations -/

/-- Settles O6: an illegal word raises `IllegalCommand`, and the code of R381 for its cause is the one listed. -/
theorem illegalWordWritesOnlyTheFaultRecord : Obligations.IllegalWordWritesOnlyTheFaultRecord := by
  intro s w rest c hs hc
  rw [step_of_classify_error hs hc, State.raiseIllegal_eq_illegalNext]
  cases c <;> rfl

/-- Settles O8: every step ends in a next state, and the run with another fault record starts from a state that differs in the
fault record alone. -/
theorem blockGoesOnWhateverTheFaultRecord : Obligations.BlockGoesOnWhateverTheFaultRecord := by
  refine ⟨fun s => ?_, fun i s e f hi => ?_⟩
  · obtain ⟨t, hstep, -⟩ := step_endsInStatusWrite s
    exact ⟨t, hstep⟩
  · obtain ⟨t, t', hrun, hrun', hout, hin, hblock, hst, hpos, hcnt⟩ :=
      exec_faultRecord_no_influence hi s (v := { s.block.status with ecode := e, fault := f }) ⟨rfl, rfl, rfl⟩
    exact ⟨t, t', hrun, hrun', hout, hin, hblock, hst, hpos, hcnt⟩

/-- Settles O11: the step on which the pin is active resets the block, whatever is presented with it. -/
theorem resetPinWinsOverACommand : Obligations.ResetPinWinsOverACommand :=
  fun _ _ _ hs => step_of_rst hs

end Sys2Proof.Machine

/-! The step on which no command is presented (`70_reset_and_hazards.md` R421, R428). -/

namespace Sys2Proof.Machine

/-- Settles O12: with nothing left to present, and with neither the pin nor a command presented, the step is the idle one. -/
theorem waitingStepKeepsTheBlock : Obligations.WaitingStepKeepsTheBlock := by
  rintro s (hnil | ⟨rest, hwait⟩)
  · rw [step_of_inputs_nil hnil, State.idle, hnil, List.tail_nil]
  · rw [step_of_wait hwait, State.idle, hwait, List.tail_cons]

end Sys2Proof.Machine
